-- ==== Sys2Proof/Word.lean ====
section
/-! DEFINITION. The word types and the fixed sizes of the block (00_scope.md rule R4). -/

namespace Sys2Proof

/-- A byte, an integer in 0..255 (R11): a wire byte, a channel of a colour, a byte of the pool space. -/
abbrev Byte := BitVec 8

/-- A step word, format STEP12 (R97): bits 11..8 the kind, bits 7..0 the operand. -/
abbrev StepWord := BitVec 12

/-- `FRAME_BYTES` (R4): bytes per frame, and per pool slot. -/
abbrev frameBytes : Nat := 192

/-- `NSLOT * FRAME_BYTES` (R60): bytes of the pool space. -/
abbrev poolBytes : Nat := 576

/-- `SENTINEL` (R4): the resynchronisation byte, never payload (R95). -/
abbrev sentinel : Byte := 0xFF

end Sys2Proof
end

