-- ==== Sys2Proof/Config.lean ====
section
/-! DEFINITION. The value types of the block (handles, colours, frames), its parameters with the defaults of
00_scope.md rule R5, and the opaque constants: the open parameters (R6, R7, R202) and the free values that
stand for whatever the spec leaves unspecified (R46, R123, R236). -/

namespace Sys2Proof

/-- A handle: a slot number in 0..2 (R13). -/
abbrev Handle := Fin 3

/-- The three 8-bit channels of a colour (R13). -/
inductive Channel where
  | red
  | green
  | blue
  deriving DecidableEq, Repr, Inhabited

/-- A Color: a triple (r, g, b) of bytes (R13). -/
structure Color where
  r : Byte
  g : Byte
  b : Byte
  deriving DecidableEq, Repr, Inhabited

/-- A Frame: 64 Colors, row-major, pixel index 8*row + col (R13). -/
abbrev Frame := Vector Color 64

/-- `pool.free[0..2]` (R22): a bit is true when the slot is in the free set. -/
structure FreeMap where
  f0 : Bool
  f1 : Bool
  f2 : Bool
  deriving DecidableEq, Repr, Inhabited

/-- `RXCHAN` (R5): a bijection from the channel number k in 0..2 to a colour channel. The constructor's
letters name the channels of k = 0, 1, 2 in that order. -/
inductive ChannelOrder where
  | bgr
  | brg
  | gbr
  | grb
  | rbg
  | rgb
  deriving DecidableEq, Repr, Inhabited

/-- `AcquirePolicy` (R5): a function from a non-empty set of free slots to one of its members, as data. A
one-element set leaves no choice; each two-element set has one bit (true: the lower slot); the full set has
a slot of its own. DEDUCED (log 19): these 24 tables are exactly all such functions. -/
structure AcquirePolicy where
  low01 : Bool
  low02 : Bool
  low12 : Bool
  all : Handle
  deriving DecidableEq, Repr, Inhabited

/-- The type of `CW` (R5): a positive integer. -/
structure Width where
  bits : Nat
  positive : 0 < bits
  deriving DecidableEq, Repr

/-- The type of `T_SS` (R5): a duration, in seconds. A duration between two ticks is positive. -/
structure Duration where
  seconds : Rat
  positive : 0 < seconds
  deriving DecidableEq, Repr

/-- The parameters the document leaves to the implementation (R5). Every value of this type is a value the rule
admits. -/
structure Config where
  /-- `CW`, the width of the Change Counter in bits. -/
  cw : Width
  /-- `RESET_FRAME`, the frame on display after reset. -/
  resetFrame : Frame
  /-- `AcquirePolicy`. -/
  policy : AcquirePolicy
  /-- `RXCHAN`. -/
  rxchan : ChannelOrder
  /-- `PALETTE`, 3 Colors. -/
  palette : Vector Color 3
  /-- `T_SS`, the screensaver period. -/
  tSs : Duration
  deriving DecidableEq, Repr

/-- The defaults of R5: CW 32, a dark frame, the lowest slot, blue-green-red, red green blue at full scale,
one second. -/
def Config.default : Config where
  cw := ⟨32, by decide⟩
  resetFrame := Vector.replicate 64 ⟨0x00, 0x00, 0x00⟩
  policy := ⟨true, true, true, 0⟩
  rxchan := .bgr
  palette := #v[⟨0xFF, 0x00, 0x00⟩, ⟨0x00, 0xFF, 0x00⟩, ⟨0x00, 0x00, 0xFF⟩]
  tSs := ⟨1, by decide⟩

/-! ## Open parameters, uninterpreted (R6, R7, R202) -/

/-- `SsPixel(row, col, base)` (R6, R201): pure, and nothing else is known of it. -/
opaque Config.ssPixel : Fin 8 → Fin 8 → Color → Color

/-- `Gamma` (R7): the gamma correction of the output collaborator, outside the block. -/
opaque Config.gamma : Byte → Byte

/-- A scalar of Color arithmetic (R202), by its value: a non-negative number. Its machine type is not in the source;
every integer and every finite floating-point number is one of these. DESIGN CHOICE (log 20). -/
abbrev Config.Scalar := NNRat

/-- The rounding mode of a channel times a scalar (R202, U5), left open: whether a product that is no integer goes to
the next one above (true) or below, for each channel value and scalar. -/
opaque Config.mulRoundsUp : Byte → Config.Scalar → Bool

/-- The rounding mode of a channel divided by a scalar (R202, U5), left open likewise. -/
opaque Config.divRoundsUp : Byte → Config.Scalar → Bool

/-- What a channel divided by zero gives (R202, U5): not in the source. -/
opaque Config.divByZero : Byte → Byte

/-! ## Free values

Each is applied to the counter `fresh` of State, so that two moments share no value (log 5). -/

/-- What a byte of the pool space with no specified value reads as (R21, R123): counter, address. -/
opaque Config.unspecifiedByte : Nat → Nat → Byte

/-- `pool.free` after the fault (R236). -/
opaque Config.unspecifiedFree : Nat → FreeMap

/-- `dec.off` after the fault (R236). -/
opaque Config.unspecifiedOff : Nat → BitVec 8

/-- `dec.asm` after the fault (R236). -/
opaque Config.unspecifiedAsm : Nat → Handle

/-- `pend` after the fault (R236). -/
opaque Config.unspecifiedPend : Nat → Option Handle

/-- `disp.cur` after the fault (R236). -/
opaque Config.unspecifiedCur : Nat → Handle

/-- `disp.row` after the fault (R236). -/
opaque Config.unspecifiedRow : Nat → Fin 8

/-- `cnt` after the fault (R236), before it is cut to CW bits. -/
opaque Config.unspecifiedCnt : Nat → Nat

/-- `cnt_req` after the fault (R236). -/
opaque Config.unspecifiedCntReq : Nat → Nat

/-- `ss.last` after the fault (R236), before it is cut to CW bits. -/
opaque Config.unspecifiedLast : Nat → Nat

/-- `ss.pal` after the fault (R236). -/
opaque Config.unspecifiedPal : Nat → Fin 3

/-- `ss.hold` after the fault (R236). -/
opaque Config.unspecifiedHold : Nat → Option Handle

/-- `disp.deadline` after the fault (R236). -/
opaque Config.unspecifiedDispDeadline : Nat → Nat

/-- `ss.deadline` after the fault (R236). -/
opaque Config.unspecifiedSsDeadline : Nat → Nat

end Sys2Proof
end

