-- ==== Sys2Proof/Syntax.lean ====
section
/-! DEFINITION. The operations of the block (00_scope.md rule R8): one constructor per mnemonic of
spec/opcode_table.json. The W8 and STEP12 rows of RX.SYNC and RX.DATA are two encodings of one operation. -/

namespace Sys2Proof

/-- The agent that calls POOL.ACQUIRE, `who` in {RX, SS} (R121): it only names the fault. -/
inductive Caller where
  | rx
  | ss
  deriving DecidableEq, Repr

/-- The operations: seven steps, then seven primitives (R8, R104). -/
inductive Instr where
  /-- RX.SYNC (R156). -/
  | rxSync
  /-- RX.DATA with its payload byte (R157). -/
  | rxData (d : Byte)
  /-- DISP.TICK (R177). -/
  | dispTick
  /-- CNT.INC (R141). -/
  | cntInc
  /-- SS.BEGIN (R196). -/
  | ssBegin
  /-- SS.FINISH (R197). -/
  | ssFinish
  /-- RESET (R260). -/
  | reset
  /-- POOL.ACQUIRE (R121). -/
  | poolAcquire (who : Caller)
  /-- POOL.RELEASE (R122). -/
  | poolRelease (h : Handle)
  /-- PEND.INSTALL (R136). -/
  | pendInstall (h : Handle)
  /-- PEND.TAKE (R137). -/
  | pendTake
  /-- CNT.SIGNAL (R140). -/
  | cntSignal
  /-- CNT.READ (R142). -/
  | cntRead
  /-- RX.DONE (R158). -/
  | rxDone
  deriving DecidableEq, Repr

/-- The agents of the block (R9). -/
inductive Agent where
  | rx
  | disp
  | cnt
  | ss
  deriving DecidableEq, Repr

end Sys2Proof
end

