-- ==== Sys2Proof/WellFormed.lean ====
section
/-! DEFINITION. Which terms of Instr are operations of the spec, and which of them are steps. -/

namespace Sys2Proof

/-- The operand of RX.DATA is a byte 0x00..0xFE, never the sentinel (R92, R95, R157). Every other operand is
in range by its type. -/
def Instr.wellFormed : Instr → Bool
  | .rxData d => d != sentinel
  | .rxSync => true
  | .dispTick => true
  | .cntInc => true
  | .ssBegin => true
  | .ssFinish => true
  | .reset => true
  | .poolAcquire _ => true
  | .poolRelease _ => true
  | .pendInstall _ => true
  | .pendTake => true
  | .cntSignal => true
  | .cntRead => true
  | .rxDone => true

/-- Steps can be scheduled on their own and appear in a trace; primitives run only inside a step (R8). -/
def Instr.isStep : Instr → Bool
  | .rxSync => true
  | .rxData _ => true
  | .dispTick => true
  | .cntInc => true
  | .ssBegin => true
  | .ssFinish => true
  | .reset => true
  | .poolAcquire _ => false
  | .poolRelease _ => false
  | .pendInstall _ => false
  | .pendTake => false
  | .cntSignal => false
  | .cntRead => false
  | .rxDone => false

end Sys2Proof
end

