-- ==== Sys2Proof/Decode.lean ====
section
/-! DEFINITION. Decoding of wire bytes (format W8, 30_encoding.md rules R90 to R92) and of step words (format
STEP12, rules R97, R98), total and rejecting by name; after it the encoder; then the host's entry point. -/

namespace Sys2Proof

/-- Why a bit string is no step (R98). -/
inductive DecodeReject where
  /-- kinds 0x5 to 0xE, with any operand -/
  | reservedKind (kind : BitVec 4)
  /-- kinds 0x1, 0x2, 0x3, 0x4, 0xF with a non-zero operand -/
  | nonZeroOperand (kind : BitVec 4) (operand : Byte)
  /-- a bit string that is neither a wire byte nor a 12-bit step word -/
  | noFormat (nbits : Nat) (bits : Nat)
  deriving DecidableEq, Repr

/-- One encoded unit: a byte on the wire (W8), a step word of a trace (STEP12), or a bit string that fits
neither format. -/
inductive Coded where
  | w8 (b : Byte)
  | step12 (w : StepWord)
  | other (nbits : Nat) (bits : Nat)
  deriving DecidableEq, Repr

/-- A bit string of `nbits` bits as an encoded unit: 8 bits are a wire byte (R96: every unit on the wire is
one byte), 12 bits, or 12 bits in two whole bytes with the bits above them 0, are a step word.
DESIGN CHOICE (log 15): the two-byte container. -/
def Coded.ofBits (nbits bits : Nat) : Coded :=
  if nbits = 8 ∧ bits < 256 then .w8 (BitVec.ofNat 8 bits)
  else if (nbits = 12 ∨ nbits = 16) ∧ bits < 4096 then .step12 (BitVec.ofNat 12 bits)
  else .other nbits bits

/-- The wire byte (R90 to R92, R95): SYNC is tested first, DATA is the only other case; every one of the 256
values has a meaning, and no earlier byte matters. -/
def decodeWire (b : Byte) : Instr :=
  if b = sentinel then .rxSync else .rxData b

/-- `w[11:8]`, the kind of a step word (R97). -/
def stepKind (w : StepWord) : BitVec 4 := w.extractLsb' 8 4

/-- `w[7:0]`, the operand of a step word (R97). -/
def stepOperand (w : StepWord) : Byte := w.extractLsb' 0 8

/-- The step word (R97, R98). Kind 0 carries a wire byte; kinds 1 to 4 and F take operand 0 only; no other
kind is a step. -/
def decodeStep (w : StepWord) : Except DecodeReject Instr :=
  let k := stepKind w
  let o := stepOperand w
  if k = 0x0 then .ok (decodeWire o)
  else if k = 0x1 then (if o = 0 then .ok .dispTick else .error (.nonZeroOperand k o))
  else if k = 0x2 then (if o = 0 then .ok .cntInc else .error (.nonZeroOperand k o))
  else if k = 0x3 then (if o = 0 then .ok .ssBegin else .error (.nonZeroOperand k o))
  else if k = 0x4 then (if o = 0 then .ok .ssFinish else .error (.nonZeroOperand k o))
  else if k = 0xF then (if o = 0 then .ok .reset else .error (.nonZeroOperand k o))
  else .error (.reservedKind k)

/-- Decoding of one encoded unit, total. -/
def decode : Coded → Except DecodeReject Instr
  | .w8 b => .ok (decodeWire b)
  | .step12 w => decodeStep w
  | .other n bits => .error (.noFormat n bits)

/-- The step word of an operation (R97). A primitive has no encoding (R99); neither has the ill-formed
RX.DATA 0xFF (R92). -/
def encode : Instr → Option StepWord
  | .rxSync => some 0x0FF
  | .rxData d => if d = sentinel then none else some ((0x0 : BitVec 4) ++ d)
  | .dispTick => some 0x100
  | .cntInc => some 0x200
  | .ssBegin => some 0x300
  | .ssFinish => some 0x400
  | .reset => some 0xF00
  | .poolAcquire _ => none
  | .poolRelease _ => none
  | .pendInstall _ => none
  | .pendTake => none
  | .cntSignal => none
  | .cntRead => none
  | .rxDone => none

/-- The wire byte of an operation (R91, R92): only the two RX operations are selected by a byte (R104). -/
def encodeWire : Instr → Option Byte
  | .rxSync => some sentinel
  | .rxData d => if d = sentinel then none else some d
  | .dispTick => none
  | .cntInc => none
  | .ssBegin => none
  | .ssFinish => none
  | .reset => none
  | .poolAcquire _ => none
  | .poolRelease _ => none
  | .pendInstall _ => none
  | .pendTake => none
  | .cntSignal => none
  | .cntRead => none
  | .rxDone => none

/-- What the decoder reads from a word numbered as spec/opcode_table.json numbers it. -/
def decodeTableWord (nbits w : Nat) : Option Instr :=
  match decode (Coded.ofBits nbits w) with
  | .ok i => some i
  | .error _ => none

end Sys2Proof
end

