-- ==== Sys2Proof/Machine/Memory.lean ====
section
/-! DEFINITION. The pool space as a list of (address, byte) pairs in one canonical form (20_memory.md rules R60,
R65). The list holds exactly the bytes that have a specified value; an unlisted address has none (R46, R123). -/

namespace Sys2Proof.Machine

/-- The bytes of the pool space that have a specified value. -/
abbrev Memory := List Host.Cell

/-- The flat rendering of the address (s, o) (R60). -/
def addr (h : Handle) (o : Nat) : Nat := frameBytes * h.val + o

/-- The address lies in slot `h`. -/
def inSlot (h : Handle) (a : Nat) : Bool := frameBytes * h.val ≤ a && a < frameBytes * h.val + frameBytes

/-- The specified byte at an address, if it has one. -/
def Memory.lookup : Memory → Nat → Option Byte
  | [], _ => none
  | (a, b) :: m, x => if x = a then some b else Memory.lookup m x

/-- One byte written; every other address as before (R65). -/
def Memory.write : Memory → Nat → Byte → Memory
  | [], x, v => [(x, v)]
  | (a, b) :: m, x, v =>
    if x < a then (x, v) :: (a, b) :: m
    else if x = a then (x, v) :: m
    else (a, b) :: Memory.write m x v

/-- The bytes of slot `h` become unspecified: none of them stays listed (R46, R123). -/
def Memory.forget (h : Handle) (m : Memory) : Memory := m.filter fun c => !inSlot h c.1

/-- The canonical form: addresses strictly rising, all inside the pool space (R60). An unlisted address has no
specified value, so no entry can equal what it reads as. -/
abbrev Memory.wf (m : Memory) : Prop :=
  m.Pairwise (fun c d => c.1 < d.1) ∧ ∀ c ∈ m, c.1 < poolBytes

end Sys2Proof.Machine
end

