-- ==== Sys2Proof/Machine/Layout.lean ====
section
/-! DEFINITION. The layout of a frame inside a slot (20_memory.md rule R62), the channel order RXCHAN, the free
bitmap and the acquire policy as functions (R5, R22). -/

namespace Sys2Proof.Machine

/-- `RXCHAN(k)` (R5, R62). -/
def rxchan : ChannelOrder → Fin 3 → Channel
  | .bgr, 0 => .blue
  | .bgr, 1 => .green
  | .bgr, 2 => .red
  | .brg, 0 => .blue
  | .brg, 1 => .red
  | .brg, 2 => .green
  | .gbr, 0 => .green
  | .gbr, 1 => .blue
  | .gbr, 2 => .red
  | .grb, 0 => .green
  | .grb, 1 => .red
  | .grb, 2 => .blue
  | .rbg, 0 => .red
  | .rbg, 1 => .blue
  | .rbg, 2 => .green
  | .rgb, 0 => .red
  | .rgb, 1 => .green
  | .rgb, 2 => .blue

/-- The channel number of a colour channel, the inverse of RXCHAN (R5: a bijection). -/
def channelNumber (order : ChannelOrder) (c : Channel) : Fin 3 :=
  if rxchan order 0 = c then 0 else if rxchan order 1 = c then 1 else 2

/-- One channel of a colour (R13). -/
def colorChannel (color : Color) : Channel → Byte
  | .red => color.r
  | .green => color.g
  | .blue => color.b

/-- The byte of a colour that is stored as channel number `k` (R62, R198). -/
def colorByte (order : ChannelOrder) (color : Color) (k : Fin 3) : Byte := colorChannel color (rxchan order k)

/-- The Color whose channel RXCHAN(k) is the byte `bytes k` (R63). -/
def colorOfBytes (order : ChannelOrder) (bytes : Fin 3 → Byte) : Color where
  r := bytes (channelNumber order .red)
  g := bytes (channelNumber order .green)
  b := bytes (channelNumber order .blue)

/-- `o = 24*row + 3*col + k` (R62). -/
def pixelOffset (row col : Fin 8) (k : Fin 3) : Nat := 24 * row.val + 3 * col.val + k.val

/-- 0..7 in order: the rows of a frame, the columns of a row. -/
def zeroToSeven : List (Fin 8) := [0, 1, 2, 3, 4, 5, 6, 7]

/-- The pixel at (row, col) of a frame value, index 8*row + col (R13). -/
def framePixel (f : Frame) (row col : Fin 8) : Color := f[8 * row.val + col.val]

/-- `WritePixel` on the pool space (R198): the three channel bytes in rising offset. -/
def writePixelBytes (order : ChannelOrder) (h : Handle) (row col : Fin 8) (color : Color) (m : Memory) : Memory :=
  ((m.write (addr h (pixelOffset row col 0)) (colorByte order color 0)).write
    (addr h (pixelOffset row col 1)) (colorByte order color 1)).write
    (addr h (pixelOffset row col 2)) (colorByte order color 2)

/-- The 64 pixels of one frame, row by row, column by column (R197, R260). -/
@[irreducible] def writeFrameBytes (order : ChannelOrder) (h : Handle) (pix : Fin 8 → Fin 8 → Color) (m : Memory) : Memory :=
  zeroToSeven.foldl
    (fun m row => zeroToSeven.foldl (fun m col => writePixelBytes order h row col (pix row col) m) m) m

/-- `pool.free[h]` (R22). -/
def freeGet (f : FreeMap) : Handle → Bool
  | 0 => f.f0
  | 1 => f.f1
  | 2 => f.f2

/-- `pool.free[h] <- b` (R22). -/
def freeSet (f : FreeMap) (h : Handle) (b : Bool) : FreeMap :=
  match h with
  | 0 => { f with f0 := b }
  | 1 => { f with f1 := b }
  | 2 => { f with f2 := b }

/-- The number of free slots (R37). -/
def freeCount (f : FreeMap) : Nat := f.f0.toNat + f.f1.toNat + f.f2.toNat

/-- The slot POOL.ACQUIRE takes from the free set, none when the set is empty (R5, R121). -/
def choose (p : AcquirePolicy) : FreeMap → Option Handle
  | ⟨false, false, false⟩ => none
  | ⟨true, false, false⟩ => some 0
  | ⟨false, true, false⟩ => some 1
  | ⟨false, false, true⟩ => some 2
  | ⟨true, true, false⟩ => some (if p.low01 then 0 else 1)
  | ⟨true, false, true⟩ => some (if p.low02 then 0 else 2)
  | ⟨false, true, true⟩ => some (if p.low12 then 1 else 2)
  | ⟨true, true, true⟩ => some p.all

end Sys2Proof.Machine
end

