-- ==== Sys2Proof/Machine/State.lean ====
section
/-! DEFINITION. The state of the block: the thirteen elements of 10_state.md rule R20, the timing-only elements
of R35, the observation `out` of R34, and the model's own fields (INVENTORY.md lists every one). -/

namespace Sys2Proof.Machine

/-- The fault register (R33, R221). Code 3 is not used. -/
inductive FaultReg where
  /-- code 0 -/
  | noFault
  /-- code 1, `PoolExhausted(RX)` -/
  | poolExhaustedRx
  /-- code 2, `PoolExhausted(SS)` -/
  | poolExhaustedSs
  deriving DecidableEq, Repr

/-- An output event `(row, px[0..7])` (R34, format OUTROW of R100). -/
structure OutEvent where
  row : Fin 8
  px : Vector Color 8
  deriving DecidableEq, Repr

/-- What a primitive hands back to its caller (R121, R137, R142). -/
inductive Result where
  /-- POOL.ACQUIRE: a handle -/
  | handle (h : Handle)
  /-- PEND.TAKE: `none` or `some(h)` -/
  | taken (t : Option Handle)
  /-- CNT.READ: the value of `cnt` -/
  | count (c : Nat)
  deriving DecidableEq, Repr

/-- The state. The first thirteen fields are the state of R20; the others are named in INVENTORY.md. -/
structure State where
  /-- `pool.buf[0..2]` (R21), flat address 192*s + o -/
  mem : Memory
  /-- `pool.free[0..2]` (R22) -/
  free : FreeMap
  /-- `dec.off` (R23), an 8-bit register -/
  off : BitVec 8
  /-- `dec.asm` (R24) -/
  asm : Handle
  /-- `pend` (R25) -/
  pend : Option Handle
  /-- `disp.cur` (R26) -/
  cur : Handle
  /-- `disp.row` (R27) -/
  row : Fin 8
  /-- `cnt` (R28), an integer in 0..2^CW-1 -/
  cnt : Nat
  /-- `cnt_req` (R29), no upper bound -/
  cntReq : Nat
  /-- `ss.last` (R30), an integer in 0..2^CW-1 -/
  last : Nat
  /-- `ss.pal` (R31) -/
  pal : Fin 3
  /-- `ss.hold` (R32) -/
  hold : Option Handle
  /-- `fault` (R33) -/
  fault : FaultReg
  /-- `disp.deadline` (R35), in row periods after the first row deadline (log 14) -/
  dispDeadline : Nat
  /-- `ss.deadline` (R35), in screensaver periods after the first screensaver deadline (log 14) -/
  ssDeadline : Nat
  /-- the output trace `out` (R34), oldest event first: the observation -/
  out : List OutEvent
  /-- the model's own: the parameters of R5, fixed for the machine (log 1) -/
  cfg : Config
  /-- the model's own: the trace still to be offered by the host (R10, log 2) -/
  trace : List Coded
  /-- the model's own: the result of the last primitive that ran on its own (log 4) -/
  ret : Option Result
  /-- the model's own: how often values became unspecified, the index of the free values (log 5) -/
  fresh : Nat
  deriving DecidableEq, Repr

/-- Why the machine stops with a fault: never. The block's one fault, PoolExhausted, is TAKEN: the next state has
`fault` set and everything else unspecified (R236, Ops.raisePoolExhausted), because RESET is still a move
from there (R237, R260). -/
inductive Fault where
  deriving DecidableEq, Repr

/-- Why a step has no next state: the step relation of the spec has no such move. All of them are safe. -/
inductive Refusal where
  /-- exec's arm of an instruction that has no meaning in the model yet; safe. No arm raises it. -/
  | notModelled (mnemonic : String)
  /-- step, on an encoded unit that is no step (R98): refused by a trace reader; safe. -/
  | notAStep (why : DecodeReject)
  /-- every meaning, when the operation is not enabled in the state (R98, R226): not a move of the block; safe. -/
  | notEnabled
  /-- RX.DATA as a term whose operand is 0xFF, which is no payload byte (R92, R95); safe. -/
  | sentinelOperand
  /-- memWrite and memRead at an offset outside the slot (R66, U16), so RX.DATA with dec.off >= 192; safe. -/
  | offsetOutOfRange
  /-- release of a free slot, install of a free or already pending handle (R124, R225, U15); safe. -/
  | handleNotHeld
  deriving DecidableEq, Repr

/-- The outcome of a step or of an operation. -/
abbrev Outcome := Host.Outcome State Fault Refusal

/-- The reset state (R261) of a block with parameters `cfg`: slot 0 holds RESET_FRAME, no byte of slots 1 and 2
has a specified value. -/
def State.resetWith (cfg : Config) : State where
  mem := writeFrameBytes cfg.rxchan 0 (framePixel cfg.resetFrame) []
  free := ⟨false, false, true⟩
  off := 0
  asm := 1
  pend := none
  cur := 0
  row := 0
  cnt := 0
  cntReq := 0
  last := 0
  pal := 0
  hold := none
  fault := .noFault
  dispDeadline := 0
  ssDeadline := 0
  out := []
  cfg := cfg
  trace := []
  ret := none
  fresh := 0

/-- The machine right after reset (R261), with the default parameters of R5 and no step offered yet. -/
def State.reset : State := State.resetWith Config.default

end Sys2Proof.Machine
end

