-- ==== Sys2Proof/Machine/Flags.lean ====
section
/-! DEFINITION. The status flags of the block (10_state.md rule R40) and the pool's counts (rule R37), computed
from the state, and the codes of the fault register (60_exceptions.md rule R221). -/

namespace Sys2Proof.Machine

/-- `pend_full` (R25, R40). -/
def pendFull (s : State) : Bool := s.pend.isSome

/-- `fault != 0` (R33, R40). -/
def faulted (s : State) : Bool := s.fault != .noFault

/-- The fault code, `fault_o[1:0]` (R45, R221). -/
def faultCode : FaultReg → BitVec 2
  | .noFault => 0
  | .poolExhaustedRx => 1
  | .poolExhaustedSs => 2

/-- The code that `raise PoolExhausted(who)` records (R221). -/
def faultOf : Caller → FaultReg
  | .rx => .poolExhaustedRx
  | .ss => .poolExhaustedSs

/-- The number of free slots (R37). -/
def freeSlots (s : State) : Nat := freeCount s.free

/-- `p` of R37: 1 if `pend` is occupied. -/
def pendCount (s : State) : Nat := s.pend.isSome.toNat

/-- `s` of R37: 1 if `ss.hold` is occupied. -/
def holdCount (s : State) : Nat := s.hold.isSome.toNat

end Sys2Proof.Machine
end

