-- ==== Sys2Proof/Machine/Operands.lean ====
section
/-! DEFINITION. The operand forms: the place of a stored byte (30_encoding.md rule R94), the reads of the pool
space (20_memory.md rules R63, R64), the row read of DISP.TICK, the palette operand of SS.FINISH. -/

namespace Sys2Proof.Machine

/-- The row of offset `o` (R62, R94). -/
def offsetRow (o : Nat) : Nat := o / 24

/-- The column of offset `o` (R62, R94). -/
def offsetCol (o : Nat) : Nat := (o / 3) % 8

/-- The channel number of offset `o` (R62, R94). -/
def offsetChannelNumber (o : Nat) : Nat := o % 3

/-- The colour channel an offset belongs to (R62, R94). -/
def offsetChannel (order : ChannelOrder) (o : Nat) : Channel :=
  if o % 3 = 0 then rxchan order 0 else if o % 3 = 1 then rxchan order 1 else rxchan order 2

/-- The flat address RX.DATA stores to: (dec.asm, dec.off) (R61, R94). -/
def storeAddr (s : State) : Nat := addr s.asm s.off.toNat

/-- The byte at (h, o): its specified value, or a free value (R123, log 6). -/
def readByte (h : Handle) (o : Nat) (s : State) : Byte :=
  (s.mem.lookup (addr h o)).getD (Config.unspecifiedByte s.fresh (addr h o))

/-- `MemRead(h, o, n)` (R64): the bytes at o .. o+n-1, lowest offset first; no meaning outside the slot. -/
def memRead (h : Handle) (o n : Nat) (s : State) : Option (List Byte) :=
  if o + n ≤ frameBytes then some ((List.range n).map fun i => readByte h (o + i) s) else none

/-- `Pixel(h, r, c)` (R63). -/
def pixel (h : Handle) (r c : Fin 8) (s : State) : Color :=
  colorOfBytes s.cfg.rxchan fun k => readByte h (pixelOffset r c k) s

/-- The row `[Pixel(h, r, c) for c in 0..7]` (R177). -/
def rowPixels (h : Handle) (r : Fin 8) (s : State) : Vector Color 8 :=
  #v[pixel h r 0 s, pixel h r 1 s, pixel h r 2 s, pixel h r 3 s,
     pixel h r 4 s, pixel h r 5 s, pixel h r 6 s, pixel h r 7 s]

/-- `PALETTE[ss.pal]`, the base colour of a screensaver frame (R197, R199). -/
def paletteColor (s : State) : Color := s.cfg.palette[s.pal]

end Sys2Proof.Machine
end

