-- ==== Sys2Proof/Machine/Ops.lean ====
section
/-! DEFINITION. The shared operations: memory access, the pool, the Pending Slot and the counter (the bodies of
the primitives of 40_pool.md and 41_sync_primitives.md), Emit, the entry of the fault (60_exceptions.md rule
R236) and the return from it (rule R237: RESET only). -/

namespace Sys2Proof.Machine

/-- Go on from a next state; a stop stays. -/
def andThen (o : Outcome) (f : State → Outcome) : Outcome :=
  match o with
  | .next s => f s
  | .fault r => .fault r
  | .refused r => .refused r

/-! ## Memory -/

/-- The byte at (h, o) becomes `v` (R65). -/
def storeByte (h : Handle) (o : Nat) (v : Byte) (s : State) : State :=
  { s with mem := s.mem.write (addr h o) v }

/-- `MemWrite(h, o, 1, v)` (R65); an offset outside 0..191 has no meaning (R66, U16). -/
def memWrite (h : Handle) (o : Nat) (v : Byte) (s : State) : Outcome :=
  if o < frameBytes then .next (storeByte h o v s) else .refused .offsetOutOfRange

/-- The whole frame `SsPixel(row, col, base)` into slot `h` (R197, R198). -/
def renderFrame (h : Handle) (base : Color) (s : State) : State :=
  { s with mem := writeFrameBytes s.cfg.rxchan h (fun r c => Config.ssPixel r c base) s.mem }

/-! ## Taking the fault, and the return from it -/

/-- `raise PoolExhausted(who)` (R221, R236): `fault` takes the code; every other element of the state becomes a
free value, of the element's type; no output event. The parameters, the trace and the observation are not
state (R20) and stay (log 8). -/
def raisePoolExhausted (who : Caller) (s : State) : State where
  mem := []
  free := Config.unspecifiedFree s.fresh
  off := Config.unspecifiedOff s.fresh
  asm := Config.unspecifiedAsm s.fresh
  pend := Config.unspecifiedPend s.fresh
  cur := Config.unspecifiedCur s.fresh
  row := Config.unspecifiedRow s.fresh
  cnt := Config.unspecifiedCnt s.fresh % 2 ^ s.cfg.cw.bits
  cntReq := Config.unspecifiedCntReq s.fresh
  last := Config.unspecifiedLast s.fresh % 2 ^ s.cfg.cw.bits
  pal := Config.unspecifiedPal s.fresh
  hold := Config.unspecifiedHold s.fresh
  fault := faultOf who
  dispDeadline := Config.unspecifiedDispDeadline s.fresh
  ssDeadline := Config.unspecifiedSsDeadline s.fresh
  out := s.out
  cfg := s.cfg
  trace := s.trace
  ret := s.ret
  fresh := s.fresh + 1

/-- The effect of RESET (R260, R262), the only return from the fault (R237): every element at its reset value, the
output trace empty. The parameters and the host's remaining trace are not state and stay; the bytes of slots
1 and 2 are unspecified anew. -/
def resetFrom (s : State) : State :=
  { State.resetWith s.cfg with trace := s.trace, fresh := s.fresh + 1 }

/-! ## The pool -/

/-- `Acquire` (R121): a free slot and the state without it in the free set, none when the set is empty. The
contents of the slot are not touched (R123). -/
def acquire (s : State) : Option (Handle × State) :=
  match choose s.cfg.policy s.free with
  | none => none
  | some h => some (h, { s with free := freeSet s.free h false })

/-- `Release(h)` (R122): the slot becomes free and its bytes unspecified (R46, R123, log 7). Release of a slot
that is already free has no meaning (R124). -/
def release (h : Handle) (s : State) : Outcome :=
  if freeGet s.free h then .refused .handleNotHeld
  else .next { s with free := freeSet s.free h true, mem := s.mem.forget h, fresh := s.fresh + 1 }

/-! ## The Pending Slot -/

/-- `Install(h)` (R136): the displaced frame is released first, then `pend <- some(h)`. The caller owns `h`
(R136), so a free handle, or the one that is pending already, is not a call the spec gives a meaning
(R36, R225, U15). -/
def install (h : Handle) (s : State) : Outcome :=
  if freeGet s.free h ∨ s.pend = some h then .refused .handleNotHeld
  else
    match s.pend with
    | none => .next { s with pend := some h }
    | some g => andThen (release g s) fun s1 => .next { s1 with pend := some h }

/-- `Take()` (R137). -/
def take (s : State) : Option Handle × State := (s.pend, { s with pend := none })

/-! ## The Change Counter -/

/-- `Signal()` (R140). -/
def signal (s : State) : State := { s with cntReq := s.cntReq + 1 }

/-- `ReadCnt()` (R142): all CW bits from one moment. -/
def readCnt (s : State) : Nat := s.cnt

/-- One owed increment performed (R141): the counter wraps modulo 2^CW. -/
def increment (s : State) : State :=
  { s with cnt := (s.cnt + 1) % 2 ^ s.cfg.cw.bits, cntReq := s.cntReq - 1 }

/-! ## Output and the palette -/

/-- `Emit(r, px)` (R176): the event is appended to the output trace; no state of the block changes. -/
def emit (r : Fin 8) (px : Vector Color 8) (s : State) : State := { s with out := s.out ++ [⟨r, px⟩] }

/-- The end of a screensaver tick (R196, R197, R205): the palette index advances, wrapping 2 -> 0, and so does the
task's deadline (R35), regardless of the branch taken. -/
def advancePalette (s : State) : State := { s with pal := s.pal + 1, ssDeadline := s.ssDeadline + 1 }

/-! ## A primitive on its own -/

/-- The primitive's result is recorded for the caller (log 4, log 17). -/
def returning (r : Option Result) (o : Outcome) : Outcome := andThen o fun s => .next { s with ret := r }

end Sys2Proof.Machine
end

