-- ==== Sys2Proof/Machine/Enable.lean ====
section
/-! DEFINITION. Agents, priority levels and the enabling conditions of the steps (00_scope.md rule R9,
60_exceptions.md rules R226, R227, R230). -/

namespace Sys2Proof.Machine

/-- The priority level of an agent (R9, R227): 2 is the highest. -/
def level : Agent → Nat
  | .rx => 2
  | .disp => 1
  | .cnt => 0
  | .ss => 0

/-- A task at a higher level preempts one at a lower level, never one of its own or a higher level (R228). -/
def preempts (a b : Agent) : Bool := level b < level a

/-- The agent that performs a step (R9, R226): none for RESET, which is the host's, and for the primitives, which
run inside a step of their caller. -/
def agentOf : Instr → Option Agent
  | .rxSync => some .rx
  | .rxData _ => some .rx
  | .dispTick => some .disp
  | .cntInc => some .cnt
  | .ssBegin => some .ss
  | .ssFinish => some .ss
  | .reset => none
  | .poolAcquire _ => none
  | .poolRelease _ => none
  | .pendInstall _ => none
  | .pendTake => none
  | .cntSignal => none
  | .cntRead => none
  | .rxDone => none

/-- "Enabled when" (R226). A primitive runs inside a step, and no step but RESET runs under a fault (R236), so a
primitive on its own needs `fault = 0` (log 17). -/
def enabled (i : Instr) (s : State) : Bool :=
  match i with
  | .rxSync => !faulted s
  | .rxData _ => !faulted s
  | .dispTick => !faulted s
  | .cntInc => !faulted s && decide (0 < s.cntReq)
  | .ssBegin => !faulted s && s.hold.isNone
  | .ssFinish => !faulted s && s.hold.isSome
  | .reset => true
  | .poolAcquire _ => !faulted s
  | .poolRelease _ => !faulted s
  | .pendInstall _ => !faulted s
  | .pendTake => !faulted s
  | .cntSignal => !faulted s
  | .cntRead => !faulted s
  | .rxDone => !faulted s

/-- An operation that is not enabled is not a move of the block: refused, never a no-op (R98). -/
def whenEnabled (i : Instr) (s : State) (effect : Outcome) : Outcome :=
  if enabled i s then effect else .refused .notEnabled

end Sys2Proof.Machine
end

