-- ==== Sys2Proof/Machine/Decoder.lean ====
section
/-! DEFINITION. The Protocol Decoder (42_decoder.md): RX.SYNC, RX.DATA, RX.DONE. -/

namespace Sys2Proof.Machine

/-- The completion sequence (R158), in its order: install the finished buffer, acquire a fresh one, cursor to 0,
signal the counter. -/
def completeFrame (s : State) : Outcome :=
  andThen (install s.asm s) fun s1 =>
    match acquire s1 with
    | none => .next (raisePoolExhausted .rx s1)
    | some (h, s2) => .next (signal { s2 with asm := h, off := 0 })

/-- The store and the advance of the cursor (R157): reaching 192 is the completion. -/
def receiveByte (d : Byte) (s : State) : Outcome :=
  andThen (memWrite s.asm s.off.toNat d s) fun s1 =>
    if s1.off.toNat + 1 < frameBytes then .next { s1 with off := s1.off + 1 } else completeFrame s1

/-- RX.SYNC (R156): the cursor to 0, nothing else. -/
def execRxSync (s : State) : Outcome :=
  whenEnabled .rxSync s (.next { s with off := 0 })

/-- RX.DATA (R157). The byte 0xFF is no operand of it (R92). -/
def execRxData (d : Byte) (s : State) : Outcome :=
  whenEnabled (.rxData d) s (if d = sentinel then .refused .sentinelOperand else receiveByte d s)

/-- RX.DONE (R158) on its own: no result. -/
def execRxDone (s : State) : Outcome :=
  whenEnabled .rxDone s (returning none (completeFrame s))

end Sys2Proof.Machine
end

