-- ==== Sys2Proof/Machine/Display.lean ====
section
/-! DEFINITION. The Display Task (43_display.md): DISP.TICK, as its two halves, the emission of a row and the
advance with the swap at the row boundary (rule R178 cuts the tick there). -/

namespace Sys2Proof.Machine

/-- The emission (R177): row `disp.row` of the displayed buffer. -/
def emitRow (s : State) : State := emit s.row (rowPixels s.cur s.row s) s

/-- The swap at the wrap (R177): the pending frame, if any, becomes the displayed one and the old one is
released. -/
def swapAtWrap (s : State) : Outcome :=
  match take s with
  | (none, s1) => .next s1
  | (some h, s1) => andThen (release s1.cur s1) fun s2 => .next { s2 with cur := h }

/-- The advance of the row index (R177) and of the task's deadline (R35, R181); at the wrap, the swap. -/
def advanceRow (s : State) : Outcome :=
  let s1 := { s with dispDeadline := s.dispDeadline + 1 }
  if s.row.val < 7 then .next { s1 with row := s.row + 1 } else swapAtWrap { s1 with row := 0 }

/-- DISP.TICK (R177). -/
def execDispTick (s : State) : Outcome :=
  whenEnabled .dispTick s (advanceRow (emitRow s))

end Sys2Proof.Machine
end

