-- ==== Sys2Proof/Machine/Pool.lean ====
section
/-! DEFINITION. The Buffer Pool's primitives run on their own (40_pool.md): POOL.ACQUIRE, POOL.RELEASE. -/

namespace Sys2Proof.Machine

/-- POOL.ACQUIRE (R121): a handle, or the fault `PoolExhausted(who)` exactly when no slot is free. -/
def execPoolAcquire (who : Caller) (s : State) : Outcome :=
  whenEnabled (.poolAcquire who) s <|
    match acquire s with
    | none => .next (raisePoolExhausted who s)
    | some (h, s1) => returning (some (.handle h)) (.next s1)

/-- POOL.RELEASE (R122): no result. -/
def execPoolRelease (h : Handle) (s : State) : Outcome :=
  whenEnabled (.poolRelease h) s (returning none (release h s))

end Sys2Proof.Machine
end

