-- ==== Sys2Proof/Machine/Reset.lean ====
section
/-! DEFINITION. RESET (70_reset_and_hazards.md rules R260 to R262), and the stepwise build of the reset state that
rule R271 gives. -/

namespace Sys2Proof.Machine

/-- RESET (R260): always enabled, also under a fault. -/
def execReset (s : State) : Outcome :=
  whenEnabled .reset s (.next (resetFrom s))

/-- The order of initialisation inside the block (R271): the pool with three free slots, the displayed buffer
(acquire, fill with RESET_FRAME), the decoder's buffer (acquire), then the registers of R261. None when an
acquire finds no slot, which does not happen. DESIGN CHOICE (log 26): under an acquire policy that does not give
slots 0 and 1, `disp.cur` and `dec.asm` are the slots acquired, not the 0 and 1 of R261. RESET does not use this. -/
def bootInOrder (cfg : Config) : Option State :=
  let pool : State := { State.resetWith cfg with mem := [], free := ⟨true, true, true⟩ }
  match acquire pool with
  | none => none
  | some (shown, s1) =>
    let s2 := { s1 with mem := writeFrameBytes cfg.rxchan shown (framePixel cfg.resetFrame) s1.mem, cur := shown }
    match acquire s2 with
    | none => none
    | some (assembled, s3) => some { s3 with asm := assembled }

end Sys2Proof.Machine
end

