-- ==== Sys2Proof/Machine/Screensaver.lean ====
section
/-! DEFINITION. The Screensaver Task (44_screensaver.md): SS.BEGIN, SS.FINISH. -/

namespace Sys2Proof.Machine

/-- SS.BEGIN (R196): the counter changed, so record it and advance the palette; or it did not, so acquire a
buffer, which may raise `PoolExhausted(SS)`. -/
def execSsBegin (s : State) : Outcome :=
  whenEnabled .ssBegin s <|
    if readCnt s ≠ s.last then .next (advancePalette { s with last := readCnt s })
    else
      match acquire s with
      | none => .next (raisePoolExhausted .ss s)
      | some (h, s1) => .next { s1 with hold := some h }

/-- SS.FINISH (R197): render the held buffer in the palette's colour, install it, hold nothing, advance the
palette. -/
def execSsFinish (s : State) : Outcome :=
  whenEnabled .ssFinish s <|
    match s.hold with
    | none => .refused .notEnabled
    | some h =>
      andThen (install h (renderFrame h (paletteColor s) s)) fun s1 =>
        .next (advancePalette { s1 with hold := none })

end Sys2Proof.Machine
end

