-- ==== Sys2Proof/Machine/Sync.lean ====
section
/-! DEFINITION. The Pending Slot and the Change Counter (41_sync_primitives.md): the primitives PEND.INSTALL,
PEND.TAKE, CNT.SIGNAL, CNT.READ run on their own, and the step CNT.INC. -/

namespace Sys2Proof.Machine

/-- PEND.INSTALL (R136): no result. -/
def execPendInstall (h : Handle) (s : State) : Outcome :=
  whenEnabled (.pendInstall h) s (returning none (install h s))

/-- PEND.TAKE (R137): `none` or `some(h)`. -/
def execPendTake (s : State) : Outcome :=
  whenEnabled .pendTake s (returning (some (.taken (take s).1)) (.next (take s).2))

/-- CNT.SIGNAL (R140): no result. -/
def execCntSignal (s : State) : Outcome :=
  whenEnabled .cntSignal s (returning none (.next (signal s)))

/-- CNT.READ (R142): the current value of `cnt`; no state of the block changes. -/
def execCntRead (s : State) : Outcome :=
  whenEnabled .cntRead s (returning (some (.count (readCnt s))) (.next s))

/-- CNT.INC (R141): one owed increment is performed. -/
def execCntInc (s : State) : Outcome :=
  whenEnabled .cntInc s (.next (increment s))

end Sys2Proof.Machine
end

