-- ==== Sys2Proof/Machine/Dispatch.lean ====
section
/-! DEFINITION. The dispatch: one arm per operation, each one direct call of its meaning. -/

namespace Sys2Proof.Machine

def exec (i : Instr) (s : State) : Host.Outcome State Fault Refusal :=
  match i with
  | .rxSync => Sys2Proof.Machine.execRxSync s
  | .rxData d => Sys2Proof.Machine.execRxData d s
  | .dispTick => Sys2Proof.Machine.execDispTick s
  | .cntInc => Sys2Proof.Machine.execCntInc s
  | .ssBegin => Sys2Proof.Machine.execSsBegin s
  | .ssFinish => Sys2Proof.Machine.execSsFinish s
  | .reset => Sys2Proof.Machine.execReset s
  | .poolAcquire who => Sys2Proof.Machine.execPoolAcquire who s
  | .poolRelease h => Sys2Proof.Machine.execPoolRelease h s
  | .pendInstall h => Sys2Proof.Machine.execPendInstall h s
  | .pendTake => Sys2Proof.Machine.execPendTake s
  | .cntSignal => Sys2Proof.Machine.execCntSignal s
  | .cntRead => Sys2Proof.Machine.execCntRead s
  | .rxDone => Sys2Proof.Machine.execRxDone s

end Sys2Proof.Machine
end

