-- ==== Sys2Proof/Machine/Offer.lean ====
section
/-! DEFINITION. What the host offers next: the head of the trace (00_scope.md rule R10), and how a wire byte
differs from a trace word (10_state.md rule R42, 30_encoding.md rule R98). -/

namespace Sys2Proof.Machine

/-- The next encoded unit of the trace and the state in which it has been taken off; none when nothing is
offered. -/
def nextOffer (s : State) : Option (Coded × State) :=
  match s.trace with
  | [] => none
  | c :: rest => some (c, { s with trace := rest })

/-- A byte on the wire is ignored when `fault != 0` (R42); a trace word that is not enabled is not ignored, it is
no move (R98). -/
def ignoredUnderFault (c : Coded) (s : State) : Bool :=
  match c with
  | .w8 _ => faulted s
  | .step12 _ => false
  | .other _ _ => false

/-- The encoded unit becomes the next one offered. -/
def offerFirst (c : Coded) (s : State) : State := { s with trace := c :: s.trace }

end Sys2Proof.Machine
end

