-- ==== Sys2Proof/Machine/Step.lean ====
section
/-! DEFINITION. One step of the machine: the next encoded unit of the trace is decoded and its operation runs. -/

namespace Sys2Proof.Machine

/-- One step. Nothing offered: the block is idle and holds its state (R244). A unit that is no step is refused
(R98). Otherwise the operation it decodes to runs in the state in which it has been taken off the trace; a
wire byte under a fault is ignored (R42). -/
def step (s : State) : Host.Outcome State Fault Refusal :=
  match nextOffer s with
  | none => .next s
  | some (c, s1) =>
    match decode c with
    | .error why => .refused (.notAStep why)
    | .ok i => if ignoredUnderFault c s1 then .next s1 else exec i s1

/-- The word is put where step takes its next operation from: at the head of the trace (log 2). -/
def State.withFetchWord (s : State) (nbits w : Nat) : State := offerFirst (Coded.ofBits nbits w) s

end Sys2Proof.Machine
end

