-- ==== Sys2Proof/Machine/Color.lean ====
section
/-! DEFINITION. Color arithmetic (44_screensaver.md rule R202): scalar multiplication and division with rounding
and saturation to 0..255. The exact product or quotient is rounded to an integer next to it; which one, and division by
zero, stay open. No step uses this. -/

namespace Sys2Proof.Machine

/-- An exact value rounded to an integer: the next one above or below, itself when it is an integer. -/
def roundTo (up : Bool) (q : Config.Scalar) : Nat := if up then ⌈q⌉₊ else ⌊q⌋₊

/-- A rounded channel value, replaced by 255 when above it (R202). -/
def saturate (n : Nat) : Byte := BitVec.ofNat 8 (min n 255)

/-- One channel times `k` (R202). -/
def mulChannel (c : Byte) (k : Config.Scalar) : Byte :=
  saturate (roundTo (Config.mulRoundsUp c k) (c.toNat * k))

/-- One channel divided by `k` (R202). -/
def divChannel (c : Byte) (k : Config.Scalar) : Byte :=
  if k = 0 then Config.divByZero c else saturate (roundTo (Config.divRoundsUp c k) (c.toNat / k))

/-- `c * k` (R202). -/
def colorMul (c : Color) (k : Config.Scalar) : Color := ⟨mulChannel c.r k, mulChannel c.g k, mulChannel c.b k⟩

/-- `c / k` (R202). -/
def colorDiv (c : Color) (k : Config.Scalar) : Color := ⟨divChannel c.r k, divChannel c.g k, divChannel c.b k⟩

end Sys2Proof.Machine
end

