-- ==== Sys2Proof/Machine/Ports.lean ====
section
/-! DEFINITION. The ports of the block (10_state.md rules R42 to R45) and what the output collaborator makes of an
output event (43_display.md rules R183, R184). -/

namespace Sys2Proof.Machine

/-- An input strobe (R42, R43, R45). -/
inductive Strobe where
  /-- `rx_stb` with `rx_byte` -/
  | rx (b : Byte)
  /-- `row_stb` -/
  | row
  /-- `ss_stb` -/
  | ss
  /-- `rst` -/
  | rst
  deriving DecidableEq, Repr

/-- The encoded unit a strobe offers (R42, R43, R45): one strobe is one step. SS.FINISH and CNT.INC have no port;
they become due inside the block (R226). DESIGN CHOICE (log 25): a timer strobe is offered as its step word, so one
that fires while its step is not enabled (under a fault, or `ss_stb` while a buffer is held) is refused; only a byte is
ignored (R42). -/
def strobeUnit : Strobe → Coded
  | .rx b => .w8 b
  | .row => .step12 0x100
  | .ss => .step12 0x300
  | .rst => .step12 0xF00

/-- `out_pix[c] = {r, g, b}`: red in bits 23:16, green in 15:8, blue in 7:0 (R44, R100). -/
def pixelBits (c : Color) : BitVec 24 := c.r ++ c.g ++ c.b

/-- `out_row[2:0]` (R44, R100). -/
def outRow (e : OutEvent) : BitVec 3 := BitVec.ofNat 3 e.row.val

/-- `out_pix[c]` (R44, R100). -/
def outPix (e : OutEvent) (c : Fin 8) : BitVec 24 := pixelBits e.px[c]

/-- `fault_o[1:0]` (R45). -/
def faultOut (s : State) : BitVec 2 := faultCode s.fault

/-- The three chain bytes of one pixel: gamma-corrected blue, green, red (R101, R183). -/
def chainPixel (c : Color) : List Byte := [Config.gamma c.b, Config.gamma c.g, Config.gamma c.r]

/-- The 24 bytes the collaborator puts on the physical chain for one event (R101, R183): reverse column order. -/
def chainBytes (e : OutEvent) : List Byte :=
  chainPixel e.px[7] ++ chainPixel e.px[6] ++ chainPixel e.px[5] ++ chainPixel e.px[4] ++
  chainPixel e.px[3] ++ chainPixel e.px[2] ++ chainPixel e.px[1] ++ chainPixel e.px[0]

/-- The physical row that is lit after the chain bytes (R184). -/
def litRow (e : OutEvent) : Fin 8 := e.row

end Sys2Proof.Machine
end

