-- ==== Sys2Proof/Machine/Timing.lean ====
section
/-! DEFINITION. The periods and the absolute deadlines (10_state.md rule R35, 70_reset_and_hazards.md rules R280 to
R282), in seconds. No rule of the step relation reads them. -/

namespace Sys2Proof.Machine

/-- `T_ROW` (R280): 1/480 s, 60 whole-image refreshes per second, 8 rows per image. -/
def rowPeriod : Rat := 1 / (60 * 8)

/-- The next row deadline, for a first deadline `d0` (R282): `d0 + n * T_ROW`, whatever the lateness of earlier
ticks. -/
def rowDeadline (d0 : Rat) (s : State) : Rat := d0 + s.dispDeadline * rowPeriod

/-- The next screensaver deadline, for a first deadline `d0` (R282). -/
def screensaverDeadline (d0 : Rat) (s : State) : Rat := d0 + s.ssDeadline * s.cfg.tSs.seconds

end Sys2Proof.Machine
end

