-- ==== Sys2Proof/Machine/Trace.lean ====
section
/-! DEFINITION. The trace notation and its pseudo-operations (30_encoding.md rules R102, R103), as abstract lines
that expand to step words. A convenience of the notation: none is an operation of the block. -/

namespace Sys2Proof.Machine

/-- `RX b`: 0x0FF or 0x0dd (R102). -/
def rxWord (b : Byte) : StepWord := (0x0 : BitVec 4) ++ b

/-- One line of the trace notation (R102), and the pseudo-operations whose expansion does not depend on the state
(R103). -/
inductive Line where
  | rx (b : Byte)
  | disp
  | cnt
  | ssb
  | ssf
  | reset
  /-- `n * <line>` -/
  | times (n : Nat) (l : Line)
  /-- `SYNC` -/
  | sync
  /-- `FILL v, n` -/
  | fill (v : Byte) (n : Nat)
  /-- `SOLID k0, k1, k2` -/
  | solid (k0 k1 k2 : Byte)
  /-- `FRAME v0, ..., v191` -/
  | frame (vs : List Byte)
  /-- `REFRESH` -/
  | refresh
  deriving Repr

/-- A list of words, `n` times over. -/
def repeatWords (n : Nat) (ws : List StepWord) : List StepWord := (List.replicate n ws).flatten

/-- The step words of a line (R102, R103). -/
def lineWords : Line → List StepWord
  | .rx b => [rxWord b]
  | .disp => [0x100]
  | .cnt => [0x200]
  | .ssb => [0x300]
  | .ssf => [0x400]
  | .reset => [0xF00]
  | .times n l => repeatWords n (lineWords l)
  | .sync => [rxWord sentinel]
  | .fill v n => List.replicate n (rxWord v)
  | .solid k0 k1 k2 => repeatWords 64 [rxWord k0, rxWord k1, rxWord k2]
  | .frame vs => vs.map rxWord
  | .refresh => List.replicate 8 0x100

/-- The units of a trace of lines, as `trace` of State holds them. -/
def traceOf (ls : List Line) : List Coded := (ls.flatMap lineWords).map .step12

/-- `SSTICK` (R103): SS.BEGIN, then SS.FINISH if and only if that SS.BEGIN left `ss.hold` occupied. -/
def ssTick (s : State) : Outcome :=
  andThen (exec .ssBegin s) fun s1 => if s1.hold.isSome then exec .ssFinish s1 else .next s1

/-- The operations of a list, one after another: a finite trace of operations (R10). -/
def runOps : List Instr → State → Outcome
  | [], s => .next s
  | i :: is, s => andThen (exec i s) (runOps is)

end Sys2Proof.Machine
end

