-- ==== Sys2Proof/Safety.lean ====
section
/-! DEFINITION. What counts as a safe state and a safe run: the invariants of 10_state.md rules R36, R37 and of
40_pool.md rule R123, the premises of a no-fault claim (70_reset_and_hazards.md rules R275, R276), and
reachability (60_exceptions.md rule R246). -/

namespace Sys2Proof.Machine

/-- The handles that the agents and the Pending Slot hold (R36). -/
def holders (s : State) : List Handle := [s.cur, s.asm] ++ s.pend.toList ++ s.hold.toList

/-- Ownership (R36): the handles are pairwise distinct, their slots are outstanding, every other slot is free. -/
abbrev Ownership (s : State) : Prop :=
  (holders s).Nodup ∧ ∀ h : Handle, freeGet s.free h = false ↔ h ∈ holders s

/-- The first `n` bytes of slot `h` have specified values. -/
abbrev Written (h : Handle) (n : Nat) (s : State) : Prop :=
  ∀ o, o < n → (s.mem.lookup (addr h o)).isSome = true

/-- No rule can read an unspecified byte (R123): the displayed and the pending buffer are fully written, the buffer
under assembly is written below the cursor. -/
abbrev Contents (s : State) : Prop :=
  Written s.cur frameBytes s ∧ (∀ h, s.pend = some h → Written h frameBytes s) ∧ Written s.asm s.off.toNat s

/-- What holds in every unfaulted state (R36, R123, R159). -/
abbrev Unfaulted (s : State) : Prop := s.off.toNat < frameBytes ∧ Ownership s ∧ Contents s

/-- The invariant of the block. Under a fault every element but `fault` is unspecified (R236), so it says only
that the memory is in its canonical form and that the counters are CW bits wide (R28, R30). -/
abbrev Invariant (s : State) : Prop :=
  s.mem.wf ∧ s.cnt < 2 ^ s.cfg.cw.bits ∧ s.last < 2 ^ s.cfg.cw.bits ∧ (s.fault = .noFault → Unfaulted s)

/-- SS.BEGIN would take its idle branch (R196). -/
abbrev idleTick (i : Instr) (s : State) : Prop := i = .ssBegin ∧ s.cnt = s.last

/-- `P_NO_RX_IN_SS` for one step (R276): no frame completes while the Screensaver holds a buffer. -/
abbrev noRxInSs (i : Instr) (s : State) : Prop :=
  ∀ d, i = .rxData d → s.off.toNat = 191 → s.hold = none

/-- Whether a wrap is owed after a step (R275): an install owes one, a DISP.TICK with `disp.row = 7` pays it, RESET
forgets it. -/
def wrapOwedAfter (i : Instr) (s : State) (owed : Bool) : Bool :=
  match i with
  | .rxData _ => if s.off.toNat = 191 then true else owed
  | .ssFinish => true
  | .dispTick => if s.row.val = 7 then false else owed
  | .reset => false
  | .rxSync => owed
  | .cntInc => owed
  | .ssBegin => owed
  | .poolAcquire _ => owed
  | .poolRelease _ => owed
  | .pendInstall _ => owed
  | .pendTake => owed
  | .cntSignal => owed
  | .cntRead => owed
  | .rxDone => owed

/-- The premises of a no-fault claim along a run of steps (R222, R275, R276): no idle SS.BEGIN while a wrap is owed,
no completion while the Screensaver holds a buffer. -/
def Premises : Bool → List Instr → State → Prop
  | _, [], _ => True
  | owed, i :: is, s =>
    i.isStep = true ∧ (idleTick i s → owed = false) ∧ noRxInSs i s ∧
      ∀ t, exec i s = .next t → Premises (wrapOwedAfter i s owed) is t

/-- The step completes a frame (R157, R158): RX.DATA with the cursor at 191. -/
def completes (i : Instr) (s : State) : Bool :=
  match i with
  | .rxData _ => decide (s.off.toNat = 191)
  | .rxSync => false
  | .dispTick => false
  | .cntInc => false
  | .ssBegin => false
  | .ssFinish => false
  | .reset => false
  | .poolAcquire _ => false
  | .poolRelease _ => false
  | .pendInstall _ => false
  | .pendTake => false
  | .cntSignal => false
  | .cntRead => false
  | .rxDone => false

/-- How many frames a run completes (R141). -/
def completedFrames : List Instr → State → Nat
  | [], _ => 0
  | i :: is, s =>
    (completes i s).toNat +
      match exec i s with
      | .next t => completedFrames is t
      | .fault _ => 0
      | .refused _ => 0

/-- A run of steps of the agents, without RESET (R233). -/
abbrev AgentSteps (is : List Instr) : Prop := ∀ i ∈ is, i.isStep = true ∧ i ≠ .reset

/-- A state that some trace reaches from reset (R246), for any parameters. -/
def Reachable (s : State) : Prop :=
  ∃ (cfg : Config) (trace : List Coded) (n : Nat),
    Host.Core.run ⟨State, Fault, Refusal, step, State.reset⟩ n { State.resetWith cfg with trace := trace } = .next s

end Sys2Proof.Machine
end

