-- ==== Sys2Proof/Certificates/Slice0/Obligations.lean ====
section
/-! DEFINITION. The statements for the provers. Each docstring names the rules of spec/ it formalises; a clause
that rests on a choice of the model says so and names the log entry. -/

open Sys2Proof Sys2Proof.Machine

/-! ## Encoding -/

/-- R97: the step words of the seven steps, the two RX operations at every operand. -/
def Obligations.StepWordsDecodeAsTabled : Prop :=
  decode (.step12 0x0FF) = .ok .rxSync ∧
  (∀ d : Byte, d ≠ 0xFF → decode (.step12 ((0x0 : BitVec 4) ++ d)) = .ok (.rxData d)) ∧
  decode (.step12 0x100) = .ok .dispTick ∧ decode (.step12 0x200) = .ok .cntInc ∧
  decode (.step12 0x300) = .ok .ssBegin ∧ decode (.step12 0x400) = .ok .ssFinish ∧
  decode (.step12 0xF00) = .ok .reset

/-- R91, R92, R95: SYNC is 0xFF, every other byte value is DATA with itself as the operand. -/
def Obligations.EveryWireByteIsSyncOrData : Prop :=
  decode (.w8 0xFF) = .ok .rxSync ∧ ∀ b : Byte, b ≠ 0xFF → decode (.w8 b) = .ok (.rxData b)

/-- R42, R43, R45: what each strobe makes due. -/
def Obligations.StrobesSelectSteps : Prop :=
  decode (strobeUnit (.rx 0xFF)) = .ok .rxSync ∧
  (∀ b : Byte, b ≠ 0xFF → decode (strobeUnit (.rx b)) = .ok (.rxData b)) ∧
  decode (strobeUnit .row) = .ok .dispTick ∧ decode (strobeUnit .ss) = .ok .ssBegin ∧
  decode (strobeUnit .rst) = .ok .reset

/-- R98: the step words that are no step, exactly; the machine refuses them when they are offered, and a step that is
not enabled is refused too, never a no-op. The second clause also covers a unit of no format, which is the model's
choice (log 15); how a wire byte under a fault differs is in log 12. -/
def Obligations.NonStepsAreRefused : Prop :=
  (∀ w : StepWord, (∃ e, decode (.step12 w) = .error e) ↔
    (0x5 ≤ (stepKind w).toNat ∧ (stepKind w).toNat ≤ 0xE) ∨
    ((stepKind w).toNat ∈ [0x1, 0x2, 0x3, 0x4, 0xF] ∧ stepOperand w ≠ 0)) ∧
  (∀ (s : State) (c : Coded) (rest : List Coded) (e : DecodeReject), s.trace = c :: rest → decode c = .error e →
    step s = .refused (.notAStep e)) ∧
  (∀ (i : Instr) (s : State), i.isStep = true → enabled i s = false → exec i s = .refused .notEnabled)

/-- R97, R99: decoding the encoded word of a well-formed step gives it back, on the wire too; a primitive has no
encoding. -/
def Obligations.DecodeEncodeAgree : Prop :=
  ∀ i : Instr, i.wellFormed = true →
    (i.isStep = true → ∃ w, encode i = some w ∧ decode (.step12 w) = .ok i) ∧
    (i.isStep = false → encode i = none ∧ encodeWire i = none) ∧
    (∀ b, encodeWire i = some b → decode (.w8 b) = .ok i) ∧
    (agentOf i = some .rx → ∃ b, encodeWire i = some b)

/-- R97: a step word has one meaning: it is the word of the step it decodes to. -/
def Obligations.EncodeDecodeAgree : Prop :=
  ∀ (w : StepWord) (i : Instr), decode (.step12 w) = .ok i →
    i.wellFormed = true ∧ i.isStep = true ∧ encode i = some w

/-- R102, R103: each line of the trace notation is the word of its step, `n * <line>` repeats its line, and the
pseudo-operations expand to the words, and to as many words, as they say; SSTICK runs SSF exactly if SSB left a buffer
held. -/
def Obligations.TraceNotationExpands : Prop :=
  (∀ b : Byte, lineWords (.rx b) = [rxWord b] ∧ decode (.step12 (rxWord b)) = .ok (decodeWire b)) ∧
  (rxWord 0xFF = 0x0FF ∧ lineWords .disp = [0x100] ∧ lineWords .cnt = [0x200] ∧ lineWords .ssb = [0x300] ∧
    lineWords .ssf = [0x400] ∧ lineWords .reset = [0xF00]) ∧
  (∀ n l, lineWords (.times n l) = (List.replicate n (lineWords l)).flatten ∧
    (lineWords (.times n l)).length = n * (lineWords l).length) ∧
  lineWords .sync = lineWords (.rx 0xFF) ∧
  (∀ v n, lineWords (.fill v n) = lineWords (.times n (.rx v)) ∧ (lineWords (.fill v n)).length = n) ∧
  (lineWords .refresh = lineWords (.times 8 .disp) ∧ (lineWords .refresh).length = 8) ∧
  (∀ k0 k1 k2, lineWords (.solid k0 k1 k2) = lineWords (.times 64 (.frame [k0, k1, k2])) ∧
    (lineWords (.solid k0 k1 k2)).length = 192) ∧
  (∀ vs, lineWords (.frame vs) = vs.flatMap (fun v => lineWords (.rx v)) ∧
    (lineWords (.frame vs)).length = vs.length) ∧
  (∀ s u, exec .ssBegin s = .next u → ssTick s = if u.hold.isSome then exec .ssFinish u else .next u)

/-! ## One step of the machine -/

/-- R10, R42: step takes the next unit off the trace and runs the operation it decodes to; a wire byte under a fault
is ignored; with nothing offered the block holds its state (R244). The trace as a list in State is the model's
choice (log 2). -/
def Obligations.StepRunsTheDecodedOperation : Prop :=
  (∀ (s : State) (c : Coded) (rest : List Coded) (i : Instr), s.trace = c :: rest → decode c = .ok i →
    (s.fault = .noFault ∨ ∀ b, c ≠ .w8 b) → step s = exec i { s with trace := rest }) ∧
  (∀ (s : State) (b : Byte) (rest : List Coded), s.trace = .w8 b :: rest → s.fault ≠ .noFault →
    step s = .next { s with trace := rest }) ∧
  (∀ s : State, s.trace = [] → step s = .next s)

/-! ## The Protocol Decoder -/

/-- R156: RX.SYNC, enabled when there is no fault, sets the cursor to 0 and changes nothing else, so that several in a
row equal one. -/
def Obligations.RxSyncResetsTheCursorOnly : Prop :=
  ∀ s : State,
    (s.fault = .noFault →
      exec .rxSync s = .next { s with off := 0 } ∧
      andThen (exec .rxSync s) (exec .rxSync) = exec .rxSync s ∧
      (s.off = 0 → exec .rxSync s = .next s)) ∧
    (s.fault ≠ .noFault → exec .rxSync s = .refused .notEnabled)

/-- R157, first branch: the byte is stored at (dec.asm, dec.off), every other byte reads as before, the cursor
advances. -/
def Obligations.RxDataStoresAndAdvances : Prop :=
  ∀ (d : Byte) (s : State), s.fault = .noFault → d ≠ 0xFF → s.off.toNat < 191 →
    ∃ m : Memory, exec (.rxData d) s = .next { s with mem := m, off := s.off + 1 } ∧
      ∀ a, m.lookup a = if a = storeAddr s then some d else s.mem.lookup a

/-- R157, R158: the 192nd byte is stored and completes the frame: the finished buffer is pending, the one slot that is
free after the install is the new buffer, the cursor is 0, one increment is owed, `cnt` does not change. -/
def Obligations.RxDataCompletesTheFrame : Prop :=
  ∀ (d : Byte) (s : State), Invariant s → s.fault = .noFault → d ≠ 0xFF → s.off.toNat = 191 → s.hold = none →
    ∃ (g : Handle) (m : Memory) (n : Nat),
      exec (.rxData d) s = .next { s with mem := m, pend := some s.asm, asm := g, off := 0,
                                          free := ⟨false, false, false⟩, cntReq := s.cntReq + 1, fresh := n } ∧
      (s.pend = none → freeGet s.free g = true) ∧ (∀ p, s.pend = some p → g = p) ∧
      ∀ a, (∀ p, s.pend = some p → inSlot p a = false) →
        m.lookup a = if a = storeAddr s then some d else s.mem.lookup a

/-- R158: the completion sequence on its own. Its result record is the model's (log 4). -/
def Obligations.RxDoneHandsTheFrameOver : Prop :=
  ∀ s : State, Invariant s → s.fault = .noFault → s.hold = none →
    ∃ (g : Handle) (m : Memory) (n : Nat),
      exec .rxDone s = .next { s with mem := m, pend := some s.asm, asm := g, off := 0,
                                      free := ⟨false, false, false⟩, cntReq := s.cntReq + 1, fresh := n,
                                      ret := none } ∧
      (s.pend = none → freeGet s.free g = true) ∧ (∀ p, s.pend = some p → g = p) ∧
      ∀ a, (∀ p, s.pend = some p → inSlot p a = false) → m.lookup a = s.mem.lookup a

/-- R155: the decoder's transitions: SYNC leads to offset 0 from everywhere, a DATA byte advances the cursor and the
192nd brings it back to 0; no step of another agent moves it. -/
def Obligations.CursorTransitions : Prop :=
  ∀ (i : Instr) (s t : State), s.off.toNat < frameBytes → i.isStep = true → exec i s = .next t → t.fault = .noFault →
    (i = .rxSync → t.off = 0) ∧
    (∀ d, i = .rxData d → t.off.toNat = (s.off.toNat + 1) % frameBytes) ∧
    (agentOf i ≠ some .rx → i ≠ .reset → t.off = s.off)

/-- R160: 192 payload bytes from cursor 0 complete a frame that is exactly those bytes, byte i at offset i, whatever the
buffer held before; the displayed buffer and everything of the other agents stay as they were. -/
def Obligations.CompletedFrameIsTheLast192Bytes : Prop :=
  ∀ (payload : List Byte) (s : State), Invariant s → s.fault = .noFault → s.off = 0 → s.hold = none →
    payload.length = 192 → (∀ b ∈ payload, b ≠ 0xFF) →
    ∃ t, runOps (payload.map .rxData) s = .next t ∧
      t.pend = some s.asm ∧ t.off = 0 ∧ t.cntReq = s.cntReq + 1 ∧ t.cnt = s.cnt ∧ t.fault = .noFault ∧
      (∀ o, o < 192 → t.mem.lookup (addr s.asm o) = payload[o]?) ∧
      t.cur = s.cur ∧ t.row = s.row ∧ t.out = s.out ∧ t.last = s.last ∧ t.pal = s.pal ∧ t.hold = none ∧
      ∀ o, o < 192 → t.mem.lookup (addr s.cur o) = s.mem.lookup (addr s.cur o)

/-! ## The Display Task -/

/-- R177: the row of the displayed buffer is emitted; the row index advances; at the wrap the pending frame, if any,
becomes the displayed one, the old one is released, and the Pending Slot is empty. (The task's deadline moves
on by one period, R35.) -/
def Obligations.DispTickEmitsAndAdvances : Prop :=
  ∀ s : State, s.fault = .noFault →
    (s.row.val < 7 → exec .dispTick s = .next { s with
      out := s.out ++ [⟨s.row, rowPixels s.cur s.row s⟩], row := s.row + 1, dispDeadline := s.dispDeadline + 1 }) ∧
    (s.row = 7 → s.pend = none → exec .dispTick s = .next { s with
      out := s.out ++ [⟨7, rowPixels s.cur 7 s⟩], row := 0, dispDeadline := s.dispDeadline + 1 }) ∧
    (∀ h, s.row = 7 → s.pend = some h → freeGet s.free s.cur = false →
      ∃ (m : Memory) (n : Nat), exec .dispTick s = .next { s with
        out := s.out ++ [⟨7, rowPixels s.cur 7 s⟩], row := 0, dispDeadline := s.dispDeadline + 1,
        pend := none, cur := h, free := freeSet s.free s.cur true, mem := m, fresh := n } ∧
        ∀ a, inSlot s.cur a = false → m.lookup a = s.mem.lookup a) ∧
    (∀ (r c : Fin 8), (rowPixels s.cur r s)[c] = pixel s.cur r c s)

/-- R178: an RX step that runs between the emission of a row and the rest of the tick gives the same state and the same
output trace as that RX step running just before the whole DISP.TICK. -/
def Obligations.ByteHandlerCommutesWithEmission : Prop :=
  ∀ (i : Instr) (s t : State), Invariant s → s.fault = .noFault → agentOf i = some .rx → exec i s = .next t →
    t.fault = .noFault →
    andThen (exec i (emitRow s)) advanceRow = exec .dispTick t

/-- R179: eight events that start at row 0 show eight rows of one and the same frame, whatever other steps run in
between. -/
def Obligations.NoTornFrames : Prop :=
  ∀ (is : List Instr) (s t : State), Invariant s → s.fault = .noFault → s.row = 0 → AgentSteps is →
    runOps is s = .next t → t.fault = .noFault → is.count .dispTick = 8 →
    t.out = s.out ++ zeroToSeven.map fun r => ⟨r, rowPixels s.cur r s⟩

/-- R180: the n-th DISP.TICK emits row n mod 8, counted from the row at the start; nothing but DISP.TICK (and RESET)
moves the row index. -/
def Obligations.RowsAreEmittedInSequence : Prop :=
  ∀ (is : List Instr) (s t : State), AgentSteps is → runOps is s = .next t → t.fault = .noFault →
    t.row.val = (s.row.val + is.count .dispTick) % 8 ∧
    t.out.map (fun e => e.row.val) =
      s.out.map (fun e => e.row.val) ++ (List.range (is.count .dispTick)).map fun n => (s.row.val + n) % 8

/-- R186: a pending frame is on display after at most eight ticks, if no other install displaces it. -/
def Obligations.PendingFrameIsShownWithinEightTicks : Prop :=
  ∀ (h : Handle) (s : State), Invariant s → s.fault = .noFault → s.pend = some h →
    ∃ t, runOps (List.replicate (8 - s.row.val) .dispTick) s = .next t ∧
      t.cur = h ∧ t.row = 0 ∧ t.pend = none ∧ freeGet t.free s.cur = true ∧
      ∀ o, o < 192 → t.mem.lookup (addr h o) = s.mem.lookup (addr h o)

/-! ## The Screensaver -/

/-- R196, changed branch: the new value is recorded and the palette advances; no buffer is touched. The task's deadline
moves on (R35, R205); that it does so here, and its count of periods, are the model's choice (log 14). -/
def Obligations.SsBeginRecordsActivity : Prop :=
  ∀ s : State, s.fault = .noFault → s.hold = none → s.cnt ≠ s.last →
    exec .ssBegin s = .next { s with last := s.cnt, pal := s.pal + 1, ssDeadline := s.ssDeadline + 1 }

/-- R196, idle branch: a free slot is acquired into `ss.hold`, nothing else changes; in a state of the invariant there is
one exactly when the Pending Slot is empty. -/
def Obligations.SsBeginAcquiresWhenIdle : Prop :=
  ∀ s : State, Invariant s → s.fault = .noFault → s.hold = none → s.cnt = s.last → s.pend = none →
    ∃ h, freeGet s.free h = true ∧
      exec .ssBegin s = .next { s with hold := some h, free := freeSet s.free h false }

/-- R197, R198: the 64 pixels of the held buffer are rendered in the palette's colour, the buffer is installed (a frame
still pending is released), the Screensaver holds nothing and the palette advances; `cnt` and `cnt_req` do not
change. The task's deadline moves on (R35, R205); that it does so here, and its count of periods, are the model's
choice (log 14). -/
def Obligations.SsFinishRendersAndInstalls : Prop :=
  ∀ (h : Handle) (s : State), s.fault = .noFault → s.hold = some h → freeGet s.free h = false →
    (s.pend = none → ∃ m : Memory,
      exec .ssFinish s = .next { s with mem := m, pend := some h, hold := none, pal := s.pal + 1,
                                        ssDeadline := s.ssDeadline + 1 } ∧
      (∀ r c k, m.lookup (addr h (pixelOffset r c k)) =
        some (colorByte s.cfg.rxchan (Config.ssPixel r c s.cfg.palette[s.pal]) k)) ∧
      ∀ a, inSlot h a = false → m.lookup a = s.mem.lookup a) ∧
    (∀ g, s.pend = some g → g ≠ h → freeGet s.free g = false → ∃ (m : Memory) (n : Nat),
      exec .ssFinish s = .next { s with mem := m, pend := some h, hold := none, pal := s.pal + 1,
                                        ssDeadline := s.ssDeadline + 1, free := freeSet s.free g true, fresh := n } ∧
      (∀ r c k, m.lookup (addr h (pixelOffset r c k)) =
        some (colorByte s.cfg.rxchan (Config.ssPixel r c s.cfg.palette[s.pal]) k)) ∧
      ∀ a, inSlot h a = false → inSlot g a = false → m.lookup a = s.mem.lookup a)

/-- R195: CNT.INC between the two steps of a tick changes only `cnt` and `cnt_req`, which SS.FINISH does not read: the
two commute. -/
def Obligations.CntIncCommutesWithSsFinish : Prop :=
  ∀ s : State, s.fault = .noFault → 0 < s.cntReq → s.hold ≠ none →
    andThen (exec .cntInc s) (exec .ssFinish) = andThen (exec .ssFinish s) (exec .cntInc)

/-- R200: the palette advances once on every tick, on either branch, and so does the deadline (R35, R205), counted in
periods by the model's choice (log 14). -/
def Obligations.PaletteAdvancesOnEveryTick : Prop :=
  ∀ s t : State, Invariant s → s.hold = none → ssTick s = .next t → t.fault = .noFault →
    t.pal.val = (s.pal.val + 1) % 3 ∧ t.ssDeadline = s.ssDeadline + 1 ∧ t.hold = none ∧
    (s.cnt ≠ s.last → t.pend = s.pend ∧ t.mem = s.mem) ∧
    (s.cnt = s.last → ∃ h, t.pend = some h ∧ ∀ r c k, t.mem.lookup (addr h (pixelOffset r c k)) =
      some (colorByte s.cfg.rxchan (Config.ssPixel r c s.cfg.palette[s.pal]) k))

/-! ## The Change Counter -/

/-- R141: CNT.INC performs one owed increment, wrapping modulo 2^CW; with none owed it is not enabled. -/
def Obligations.CntIncPerformsOneIncrement : Prop :=
  ∀ s : State, s.fault = .noFault →
    (0 < s.cntReq → exec .cntInc s = .next { s with cnt := (s.cnt + 1) % 2 ^ s.cfg.cw.bits, cntReq := s.cntReq - 1 }) ∧
    (s.cntReq = 0 → exec .cntInc s = .refused .notEnabled)

/-- R140, R142: CNT.SIGNAL adds one owed increment, CNT.READ returns the whole counter and changes no state of the block.
The record of a primitive's result is the model's (log 4). -/
def Obligations.SignalAndReadOfTheCounter : Prop :=
  ∀ s : State, s.fault = .noFault →
    exec .cntSignal s = .next { s with cntReq := s.cntReq + 1, ret := none } ∧
    exec .cntRead s = .next { s with ret := some (.count s.cnt) }

/-- R145: a number of increments that is a multiple of 2^CW brings the counter back to the same value. -/
def Obligations.CounterWrapAliases : Prop :=
  ∀ (k : Nat) (s : State), s.fault = .noFault → s.cnt < 2 ^ s.cfg.cw.bits → k * 2 ^ s.cfg.cw.bits ≤ s.cntReq →
    runOps (List.replicate (k * 2 ^ s.cfg.cw.bits) .cntInc) s = .next { s with cntReq := s.cntReq - k * 2 ^ s.cfg.cw.bits }

/-- R139, R141: every completed frame is counted exactly once: increments performed and increments owed together are
the frames completed. -/
def Obligations.EveryFrameIsCountedOnce : Prop :=
  ∀ (is : List Instr) (s t : State), AgentSteps is → s.cnt < 2 ^ s.cfg.cw.bits → runOps is s = .next t →
    t.fault = .noFault →
    is.count .cntInc + t.cntReq = s.cntReq + completedFrames is s ∧
    t.cnt = (s.cnt + is.count .cntInc) % 2 ^ s.cfg.cw.bits

/-! ## The pool and the Pending Slot -/

/-- R121: POOL.ACQUIRE takes the slot the policy chooses from the free set and touches no contents; with every slot
outstanding it raises `PoolExhausted(who)`; the default policy takes the smallest. -/
def Obligations.AcquireTakesAFreeSlot : Prop :=
  ∀ (who : Caller) (s : State), s.fault = .noFault →
    ((∃ g, freeGet s.free g = true) → ∃ h, choose s.cfg.policy s.free = some h ∧ freeGet s.free h = true ∧
      exec (.poolAcquire who) s = .next { s with free := freeSet s.free h false, ret := some (.handle h) } ∧
      (s.cfg.policy = Config.default.policy → ∀ g, freeGet s.free g = true → h ≤ g)) ∧
    ((∀ g, freeGet s.free g = false) → ∃ t, exec (.poolAcquire who) s = .next t ∧ t.fault = faultOf who ∧
      t.out = s.out)

/-- R122: POOL.RELEASE of an outstanding slot frees it. That its bytes are unspecified from then on, and no longer
listed, is the model's reading (log 7). -/
def Obligations.ReleaseFreesTheSlot : Prop :=
  ∀ (h : Handle) (s : State), s.fault = .noFault → freeGet s.free h = false →
    ∃ (m : Memory) (n : Nat),
      exec (.poolRelease h) s = .next { s with free := freeSet s.free h true, mem := m, fresh := n, ret := none } ∧
      freeSlots { s with free := freeSet s.free h true } = freeSlots s + 1 ∧
      ∀ a, m.lookup a = if inSlot h a then none else s.mem.lookup a

/-- R136, R138: PEND.INSTALL releases the frame it displaces, exactly one, and only if there is one, then holds the new
one. -/
def Obligations.InstallReleasesTheDisplacedFrame : Prop :=
  ∀ (h : Handle) (s : State), s.fault = .noFault → freeGet s.free h = false →
    (s.pend = none → exec (.pendInstall h) s = .next { s with pend := some h, ret := none }) ∧
    (∀ g, s.pend = some g → g ≠ h → freeGet s.free g = false → ∃ (m : Memory) (n : Nat),
      exec (.pendInstall h) s = .next { s with pend := some h, free := freeSet s.free g true, mem := m, fresh := n,
                                               ret := none } ∧
      freeCount (freeSet s.free g true) = freeSlots s + 1 ∧
      ∀ a, inSlot g a = false → m.lookup a = s.mem.lookup a)

/-- R137: PEND.TAKE returns what is pending and leaves the slot empty; it releases nothing. -/
def Obligations.TakeEmptiesThePendingSlot : Prop :=
  ∀ s : State, s.fault = .noFault →
    exec .pendTake s = .next { s with pend := none, ret := some (.taken s.pend) }

/-- R92, R66, R124, R225: what has no meaning stops by name: a sentinel as payload, a cursor beyond the buffer, a release
of a free slot, an install of a handle the caller cannot hold, a swap or completion that would do one of these. -/
def Obligations.MisuseIsRefusedByName : Prop :=
  ∀ s : State, s.fault = .noFault →
    exec (.rxData 0xFF) s = .refused .sentinelOperand ∧
    (∀ d, d ≠ 0xFF → frameBytes ≤ s.off.toNat → exec (.rxData d) s = .refused .offsetOutOfRange) ∧
    (∀ h, freeGet s.free h = true → exec (.poolRelease h) s = .refused .handleNotHeld) ∧
    (∀ h, freeGet s.free h = true ∨ s.pend = some h ∨ (∃ g, s.pend = some g ∧ freeGet s.free g = true) →
      exec (.pendInstall h) s = .refused .handleNotHeld ∧
      (s.hold = some h → exec .ssFinish s = .refused .handleNotHeld) ∧
      (s.asm = h → exec .rxDone s = .refused .handleNotHeld ∧
        ∀ d, d ≠ 0xFF → s.off.toNat = 191 → exec (.rxData d) s = .refused .handleNotHeld)) ∧
    (s.row = 7 → s.pend ≠ none → freeGet s.free s.cur = true → exec .dispTick s = .refused .handleNotHeld)

/-- R37: the number of free slots is 1 - p - s, so at most three buffers are in flight. -/
def Obligations.PoolAccounting : Prop :=
  ∀ s : State, Invariant s → s.fault = .noFault →
    freeSlots s + pendCount s + holdCount s = 1 ∧ (holders s).length + freeSlots s = 3 ∧ (holders s).length ≤ 3

/-- R125: no step's result depends on the acquire policy. -/
def Obligations.AcquirePolicyIsNeverExercised : Prop :=
  ∀ (i : Instr) (p : AcquirePolicy) (s t : State), Invariant s → i.isStep = true → exec i s = .next t →
    exec i { s with cfg := { s.cfg with policy := p } } = .next { t with cfg := { t.cfg with policy := p } }

/-! ## Faults -/

/-- R222: a step raises the fault exactly in the two situations of the rule, each with its code. -/
def Obligations.FaultExactlyWhenThePoolIsExhausted : Prop :=
  ∀ (i : Instr) (s t : State), Invariant s → s.fault = .noFault → i.isStep = true → exec i s = .next t →
    (t.fault = .poolExhaustedRx ↔ (∃ d, i = .rxData d) ∧ s.off.toNat = 191 ∧ s.hold ≠ none) ∧
    (t.fault = .poolExhaustedSs ↔ i = .ssBegin ∧ s.cnt = s.last ∧ s.pend ≠ none)

/-- R222 (ii), R221: the 192nd byte of a frame while the Screensaver holds a buffer takes the fault, code 1, with no
output event. -/
def Obligations.CompletionUnderScreensaverFaults : Prop :=
  ∀ (d : Byte) (s : State), Invariant s → s.fault = .noFault → d ≠ 0xFF → s.off.toNat = 191 → s.hold ≠ none →
    ∃ t, exec (.rxData d) s = .next t ∧ t.fault = .poolExhaustedRx ∧ faultOut t = 1 ∧ t.out = s.out

/-- R222 (i), R221: an idle SS.BEGIN while a frame is pending takes the fault, code 2, with no output event. -/
def Obligations.IdleTickWhilePendingFaults : Prop :=
  ∀ s : State, Invariant s → s.fault = .noFault → s.hold = none → s.cnt = s.last → s.pend ≠ none →
    ∃ t, exec .ssBegin s = .next t ∧ t.fault = .poolExhaustedSs ∧ faultOut t = 2 ∧ t.out = s.out

/-- R236, R237: under a fault no operation but RESET runs, nothing is emitted, and RESET clears it. -/
def Obligations.OnlyResetLeavesTheFault : Prop :=
  ∀ s : State, s.fault ≠ .noFault →
    (∀ i : Instr, i ≠ .reset → exec i s = .refused .notEnabled) ∧
    (∃ t, exec .reset s = .next t ∧ t.fault = .noFault) ∧
    (∀ t, step s = .next t → t.fault = .noFault → ∃ c rest, s.trace = c :: rest ∧ decode c = .ok .reset) ∧
    (∀ t, step s = .next t → t.fault ≠ .noFault → t.out = s.out ∧ t.fault = s.fault)

/-- R275, R276, R222: a run that keeps both premises never faults. -/
def Obligations.NoFaultUnderThePremises : Prop :=
  ∀ (is : List Instr) (owed : Bool) (s t : State), Invariant s → s.fault = .noFault → (s.pend ≠ none → owed = true) →
    Premises owed is s → runOps is s = .next t → t.fault = .noFault

/-! ## Reset -/

/-- R260, R261, R262: RESET from any state, also under a fault: every element takes its reset value, the output trace is
empty. That the parameters and the remaining trace stay is the model's choice (log 1, log 2), and that an unspecified
byte is one the memory does not list is its reading (log 6). -/
def Obligations.ResetGivesTheResetState : Prop :=
  ∀ s : State, ∃ t, exec .reset s = .next t ∧
    t.free = ⟨false, false, true⟩ ∧ t.off = 0 ∧ t.asm = 1 ∧ t.pend = none ∧ t.cur = 0 ∧ t.row = 0 ∧
    t.cnt = 0 ∧ t.cntReq = 0 ∧ t.last = 0 ∧ t.pal = 0 ∧ t.hold = none ∧ t.fault = .noFault ∧ t.out = [] ∧
    (∀ r c k, t.mem.lookup (addr 0 (pixelOffset r c k)) =
      some (colorByte s.cfg.rxchan (framePixel s.cfg.resetFrame r c) k)) ∧
    (∀ o, o < frameBytes → t.mem.lookup (addr 1 o) = none ∧ t.mem.lookup (addr 2 o) = none) ∧
    t.cfg = s.cfg ∧ t.trace = s.trace

/-- R263: the steps that are enabled in the reset state. -/
def Obligations.StepsEnabledAtReset : Prop :=
  ∀ cfg : Config,
    enabled .rxSync (State.resetWith cfg) = true ∧ (∀ d, enabled (.rxData d) (State.resetWith cfg) = true) ∧
    enabled .dispTick (State.resetWith cfg) = true ∧ enabled .ssBegin (State.resetWith cfg) = true ∧
    enabled .reset (State.resetWith cfg) = true ∧
    enabled .cntInc (State.resetWith cfg) = false ∧ enabled .ssFinish (State.resetWith cfg) = false

/-- R271: building the reset state in the order the rule gives leads to the state of R261, for the default acquire
policy (a premise by name, R5). -/
def Obligations.BootInOrderGivesTheResetState : Prop :=
  ∀ cfg : Config, cfg.policy = Config.default.policy → bootInOrder cfg = some (State.resetWith cfg)

/-! ## Invariants and whole-machine rules -/

/-- R263: the reset state meets the invariant, for any parameters. -/
def Obligations.ResetMeetsTheInvariant : Prop :=
  Invariant State.reset ∧ ∀ cfg : Config, Invariant (State.resetWith cfg)

/-- R36, R37, R123, R159: every step of the machine keeps the invariant. -/
def Obligations.EveryStepKeepsTheInvariant : Prop :=
  ∀ s t : State, Invariant s → step s = .next t → Invariant t

/-- R36, R246: ownership and the cursor's range hold in every unfaulted state that any trace reaches from reset. The
invariant also says that the memory keeps its canonical form and which bytes have specified values, as the model holds
them (log 6). -/
def Obligations.ReachableStatesMeetTheInvariant : Prop :=
  ∀ s : State, Reachable s → Invariant s ∧ (s.fault = .noFault → s.off.toNat < 192 ∧ (holders s).Nodup)

/-- R226, R233, R124: in a state of the invariant every well-formed step that is enabled has a next state, so no handle is
ever misused; one that is not enabled has none. -/
def Obligations.EnabledStepsAlwaysMove : Prop :=
  ∀ (i : Instr) (s : State), Invariant s → i.isStep = true → i.wellFormed = true →
    ((enabled i s = true ↔ ∃ t, exec i s = .next t) ∧
     (enabled i s = true ↔ match i with
       | .reset => True
       | .cntInc => s.fault = .noFault ∧ 0 < s.cntReq
       | .ssBegin => s.fault = .noFault ∧ s.hold = none
       | .ssFinish => s.fault = .noFault ∧ s.hold ≠ none
       | _ => s.fault = .noFault))

/-- R20, R72: each element is written only by its owners. The last clause speaks of the model's own fields, which no step
of an agent writes: the parameters (log 1), the remaining trace (log 2), a primitive's result (log 4). The deadlines
(R35) are counts of periods by the model's choice (log 14). -/
def Obligations.ElementsAreWrittenByTheirOwners : Prop :=
  ∀ (i : Instr) (s t : State), i.isStep = true → i ≠ .reset → exec i s = .next t → t.fault = .noFault →
    (t.off ≠ s.off ∨ t.asm ≠ s.asm → agentOf i = some .rx) ∧
    (t.cur ≠ s.cur ∨ t.row ≠ s.row ∨ t.out ≠ s.out ∨ t.dispDeadline ≠ s.dispDeadline → agentOf i = some .disp) ∧
    (t.cnt ≠ s.cnt → agentOf i = some .cnt) ∧
    (t.last ≠ s.last ∨ t.pal ≠ s.pal ∨ t.hold ≠ s.hold ∨ t.ssDeadline ≠ s.ssDeadline → agentOf i = some .ss) ∧
    (t.cntReq ≠ s.cntReq → agentOf i = some .rx ∨ agentOf i = some .cnt) ∧
    (t.pend ≠ s.pend ∨ t.free ≠ s.free ∨ t.mem ≠ s.mem → agentOf i ≠ some .cnt) ∧
    t.cfg = s.cfg ∧ t.trace = s.trace ∧ t.ret = s.ret

/-- R61, R65: which bytes a step can change: the byte RX.DATA stores, the frame SS.FINISH renders, and the bytes of a
slot the step releases, which are unspecified afterwards (R123). -/
def Obligations.BytesChangeOnlyWhereStored : Prop :=
  ∀ (i : Instr) (s t : State) (a : Nat), i.isStep = true → i ≠ .reset → exec i s = .next t → t.fault = .noFault →
    ((∃ d, i = .rxData d) → a ≠ storeAddr s →
      (s.off.toNat = 191 → ∀ g, s.pend = some g → inSlot g a = false) → t.mem.lookup a = s.mem.lookup a) ∧
    (i = .ssFinish → (∀ h, s.hold = some h → inSlot h a = false) → (∀ g, s.pend = some g → inSlot g a = false) →
      t.mem.lookup a = s.mem.lookup a) ∧
    (i = .dispTick → (s.row = 7 → s.pend ≠ none → inSlot s.cur a = false) → t.mem.lookup a = s.mem.lookup a) ∧
    (i = .rxSync ∨ i = .cntInc ∨ i = .ssBegin → t.mem = s.mem)

/-- R26, R179: no step writes the displayed buffer while it stays on display. -/
def Obligations.DisplayedBufferIsImmutable : Prop :=
  ∀ (i : Instr) (s t : State), Invariant s → i.isStep = true → i ≠ .reset → exec i s = .next t → t.fault = .noFault →
    t.cur = s.cur → ∀ o, o < frameBytes → t.mem.lookup (addr s.cur o) = s.mem.lookup (addr s.cur o)

/-- R123: the Display Task never reads an unspecified byte: what it emits does not depend on any free value. -/
def Obligations.DisplayReadsOnlySpecifiedBytes : Prop :=
  ∀ (s : State) (r c : Fin 8) (k : Fin 3), Invariant s → s.fault = .noFault →
    s.mem.lookup (addr s.cur (pixelOffset r c k)) = some (readByte s.cur (pixelOffset r c k) s) ∧
    ∀ n, rowPixels s.cur r { s with fresh := n } = rowPixels s.cur r s

/-! ## Memory, layout, output -/

/-- R62, R63, R94: the place of every offset, and the pixel's channel RXCHAN(k) is the byte at 24*row + 3*col + k; with
the default order that is blue, green, red. -/
def Obligations.PixelLayout : Prop :=
  (∀ o, o < 192 → o = 24 * offsetRow o + 3 * offsetCol o + offsetChannelNumber o ∧
    offsetRow o < 8 ∧ offsetCol o < 8 ∧ offsetChannelNumber o < 3) ∧
  (∀ (h : Handle) (r c : Fin 8) (k : Fin 3) (s : State),
    colorChannel (pixel h r c s) (rxchan s.cfg.rxchan k) = readByte h (24 * r.val + 3 * c.val + k.val) s) ∧
  (∀ (h : Handle) (r c : Fin 8) (s : State), s.cfg.rxchan = Config.default.rxchan →
    pixel h r c s = ⟨readByte h (24 * r.val + 3 * c.val + 2) s, readByte h (24 * r.val + 3 * c.val + 1) s,
      readByte h (24 * r.val + 3 * c.val) s⟩)

/-- R64: MemRead returns the bytes in rising order; outside the slot it has no meaning (R66, log 11). R177: a row of
the display is decoded from its 24 bytes. -/
def Obligations.MemReadReturnsTheBytesInOrder : Prop :=
  (∀ (h : Handle) (o n : Nat) (s : State),
    (o + n ≤ 192 → ∃ l, memRead h o n s = some l ∧ l.length = n ∧ ∀ i, i < n → l[i]? = some (readByte h (o + i) s)) ∧
    (192 < o + n → memRead h o n s = none)) ∧
  ∀ (h : Handle) (r : Fin 8) (s : State), ∃ l, memRead h (24 * r.val) 24 s = some l ∧
    ∀ c : Fin 8, (rowPixels h r s)[c] = colorOfBytes s.cfg.rxchan fun k => l.getD (3 * c.val + k.val) 0

/-- R65: MemWrite changes one byte and leaves the other 575 alone. Outside the slot it has no meaning (R66): the model
refuses it by name (log 11). -/
def Obligations.MemWriteChangesOneByte : Prop :=
  ∀ (h : Handle) (o : Nat) (v : Byte) (s : State),
    (o < 192 → ∃ m : Memory, memWrite h o v s = .next { s with mem := m } ∧
      ∀ (g : Handle) (p : Nat), p < 192 → m.lookup (addr g p) =
        if g = h ∧ p = o then some v else s.mem.lookup (addr g p)) ∧
    (192 ≤ o → memWrite h o v s = .refused .offsetOutOfRange)

/-- R44, R100: the bits of the output ports. -/
def Obligations.OutputPortBits : Prop :=
  ∀ (e : OutEvent) (c : Fin 8),
    (outRow e).toNat = e.row.val ∧
    (outPix e c).extractLsb' 16 8 = e.px[c].r ∧ (outPix e c).extractLsb' 8 8 = e.px[c].g ∧
    (outPix e c).extractLsb' 0 8 = e.px[c].b

/-- R101, R183: the chain bytes: reverse column order, gamma-corrected blue, green, red. -/
def Obligations.ChainBytesInReverseColumnOrder : Prop :=
  ∀ (e : OutEvent) (n : Fin 8), (chainBytes e).length = 24 ∧
    (chainBytes e)[3 * n.val]? = some (Config.gamma e.px[7 - n].b) ∧
    (chainBytes e)[3 * n.val + 1]? = some (Config.gamma e.px[7 - n].g) ∧
    (chainBytes e)[3 * n.val + 2]? = some (Config.gamma e.px[7 - n].r)

/-- R202: each channel of a product or quotient is the exact one rounded to an integer next to it, and 255 when that is
above 255; an exact integer is not changed by rounding. The rounding mode and division by zero stay open; a scalar is
held by its value (log 20). -/
def Obligations.ColorArithmeticSaturates : Prop :=
  ∀ (c : Color) (k : Config.Scalar) (ch : Channel),
    (∃ n : Nat, (n = ⌊((colorChannel c ch).toNat * k : NNRat)⌋₊ ∨ n = ⌈((colorChannel c ch).toNat * k : NNRat)⌉₊) ∧
      (colorChannel (colorMul c k) ch).toNat = min n 255) ∧
    (k ≠ 0 → ∃ n : Nat,
      (n = ⌊((colorChannel c ch).toNat / k : NNRat)⌋₊ ∨ n = ⌈((colorChannel c ch).toNat / k : NNRat)⌉₊) ∧
      (colorChannel (colorDiv c k) ch).toNat = min n 255) ∧
    (∀ n : Nat, ((colorChannel c ch).toNat * k : NNRat) = n → (colorChannel (colorMul c k) ch).toNat = min n 255) ∧
    (∀ n : Nat, k ≠ 0 → ((colorChannel c ch).toNat / k : NNRat) = n →
      (colorChannel (colorDiv c k) ch).toNat = min n 255)

/-- R282, R35: each DISP.TICK moves the row deadline on by exactly 1/480 s, computed from the last deadline, which is
held as a count of periods (log 14). -/
def Obligations.RowDeadlinesAreAbsolute : Prop :=
  ∀ (d0 : Rat) (s t : State), exec .dispTick s = .next t →
    rowDeadline d0 t = rowDeadline d0 s + 1 / 480

/-- R282, R35, R205: each whole screensaver tick, on either branch, moves the screensaver deadline on by exactly T_SS,
computed from the last deadline, which is held as a count of periods (log 14). -/
def Obligations.ScreensaverDeadlinesAreAbsolute : Prop :=
  ∀ (d0 : Rat) (s t : State), ssTick s = .next t → t.fault = .noFault →
    screensaverDeadline d0 t = screensaverDeadline d0 s + s.cfg.tSs.seconds
end

