-- ==== Sys2Proof/Laws/Color.lean ====
section
/-! SUPPORT. Color arithmetic: saturation, rounding, and the channels of a product and a quotient. -/

namespace Sys2Proof.Machine

@[simp] theorem saturate_toNat (n : Nat) : (saturate n).toNat = min n 255 := by
  have : min n 255 < 256 := by omega
  simp [saturate, Nat.mod_eq_of_lt this]

/-- Rounding gives an integer next to the exact value. -/
theorem roundTo_eq (up : Bool) (q : Config.Scalar) : roundTo up q = ⌊q⌋₊ ∨ roundTo up q = ⌈q⌉₊ := by
  cases up <;> simp [roundTo]

/-- Rounding leaves an integer alone. -/
@[simp] theorem roundTo_natCast (up : Bool) (n : Nat) : roundTo up (n : NNRat) = n := by
  cases up <;> simp [roundTo]

@[simp] theorem colorChannel_colorMul (c : Color) (k : Config.Scalar) (ch : Channel) :
    colorChannel (colorMul c k) ch = mulChannel (colorChannel c ch) k := by
  cases ch <;> rfl

@[simp] theorem colorChannel_colorDiv (c : Color) (k : Config.Scalar) (ch : Channel) :
    colorChannel (colorDiv c k) ch = divChannel (colorChannel c ch) k := by
  cases ch <;> rfl

end Sys2Proof.Machine
end

