-- ==== Sys2Proof/Laws/State.lean ====
section
/-! SUPPORT. One lemma per field per named update of State, true by rfl, so that no later proof unfolds one. -/

namespace Sys2Proof.Machine

/-! ## storeByte -/

@[simp] theorem storeByte_mem (h : Handle) (o : Nat) (v : Byte) (s : State) : (storeByte h o v s).mem = s.mem.write (addr h o) v := rfl
@[simp] theorem storeByte_free (h : Handle) (o : Nat) (v : Byte) (s : State) : (storeByte h o v s).free = s.free := rfl
@[simp] theorem storeByte_off (h : Handle) (o : Nat) (v : Byte) (s : State) : (storeByte h o v s).off = s.off := rfl
@[simp] theorem storeByte_asm (h : Handle) (o : Nat) (v : Byte) (s : State) : (storeByte h o v s).asm = s.asm := rfl
@[simp] theorem storeByte_pend (h : Handle) (o : Nat) (v : Byte) (s : State) : (storeByte h o v s).pend = s.pend := rfl
@[simp] theorem storeByte_cur (h : Handle) (o : Nat) (v : Byte) (s : State) : (storeByte h o v s).cur = s.cur := rfl
@[simp] theorem storeByte_row (h : Handle) (o : Nat) (v : Byte) (s : State) : (storeByte h o v s).row = s.row := rfl
@[simp] theorem storeByte_cnt (h : Handle) (o : Nat) (v : Byte) (s : State) : (storeByte h o v s).cnt = s.cnt := rfl
@[simp] theorem storeByte_cntReq (h : Handle) (o : Nat) (v : Byte) (s : State) : (storeByte h o v s).cntReq = s.cntReq := rfl
@[simp] theorem storeByte_last (h : Handle) (o : Nat) (v : Byte) (s : State) : (storeByte h o v s).last = s.last := rfl
@[simp] theorem storeByte_pal (h : Handle) (o : Nat) (v : Byte) (s : State) : (storeByte h o v s).pal = s.pal := rfl
@[simp] theorem storeByte_hold (h : Handle) (o : Nat) (v : Byte) (s : State) : (storeByte h o v s).hold = s.hold := rfl
@[simp] theorem storeByte_fault (h : Handle) (o : Nat) (v : Byte) (s : State) : (storeByte h o v s).fault = s.fault := rfl
@[simp] theorem storeByte_dispDeadline (h : Handle) (o : Nat) (v : Byte) (s : State) : (storeByte h o v s).dispDeadline = s.dispDeadline := rfl
@[simp] theorem storeByte_ssDeadline (h : Handle) (o : Nat) (v : Byte) (s : State) : (storeByte h o v s).ssDeadline = s.ssDeadline := rfl
@[simp] theorem storeByte_out (h : Handle) (o : Nat) (v : Byte) (s : State) : (storeByte h o v s).out = s.out := rfl
@[simp] theorem storeByte_cfg (h : Handle) (o : Nat) (v : Byte) (s : State) : (storeByte h o v s).cfg = s.cfg := rfl
@[simp] theorem storeByte_trace (h : Handle) (o : Nat) (v : Byte) (s : State) : (storeByte h o v s).trace = s.trace := rfl
@[simp] theorem storeByte_ret (h : Handle) (o : Nat) (v : Byte) (s : State) : (storeByte h o v s).ret = s.ret := rfl
@[simp] theorem storeByte_fresh (h : Handle) (o : Nat) (v : Byte) (s : State) : (storeByte h o v s).fresh = s.fresh := rfl

/-! ## renderFrame -/

@[simp] theorem renderFrame_mem (h : Handle) (base : Color) (s : State) : (renderFrame h base s).mem = writeFrameBytes s.cfg.rxchan h (fun r c => Config.ssPixel r c base) s.mem := rfl
@[simp] theorem renderFrame_free (h : Handle) (base : Color) (s : State) : (renderFrame h base s).free = s.free := rfl
@[simp] theorem renderFrame_off (h : Handle) (base : Color) (s : State) : (renderFrame h base s).off = s.off := rfl
@[simp] theorem renderFrame_asm (h : Handle) (base : Color) (s : State) : (renderFrame h base s).asm = s.asm := rfl
@[simp] theorem renderFrame_pend (h : Handle) (base : Color) (s : State) : (renderFrame h base s).pend = s.pend := rfl
@[simp] theorem renderFrame_cur (h : Handle) (base : Color) (s : State) : (renderFrame h base s).cur = s.cur := rfl
@[simp] theorem renderFrame_row (h : Handle) (base : Color) (s : State) : (renderFrame h base s).row = s.row := rfl
@[simp] theorem renderFrame_cnt (h : Handle) (base : Color) (s : State) : (renderFrame h base s).cnt = s.cnt := rfl
@[simp] theorem renderFrame_cntReq (h : Handle) (base : Color) (s : State) : (renderFrame h base s).cntReq = s.cntReq := rfl
@[simp] theorem renderFrame_last (h : Handle) (base : Color) (s : State) : (renderFrame h base s).last = s.last := rfl
@[simp] theorem renderFrame_pal (h : Handle) (base : Color) (s : State) : (renderFrame h base s).pal = s.pal := rfl
@[simp] theorem renderFrame_hold (h : Handle) (base : Color) (s : State) : (renderFrame h base s).hold = s.hold := rfl
@[simp] theorem renderFrame_fault (h : Handle) (base : Color) (s : State) : (renderFrame h base s).fault = s.fault := rfl
@[simp] theorem renderFrame_dispDeadline (h : Handle) (base : Color) (s : State) : (renderFrame h base s).dispDeadline = s.dispDeadline := rfl
@[simp] theorem renderFrame_ssDeadline (h : Handle) (base : Color) (s : State) : (renderFrame h base s).ssDeadline = s.ssDeadline := rfl
@[simp] theorem renderFrame_out (h : Handle) (base : Color) (s : State) : (renderFrame h base s).out = s.out := rfl
@[simp] theorem renderFrame_cfg (h : Handle) (base : Color) (s : State) : (renderFrame h base s).cfg = s.cfg := rfl
@[simp] theorem renderFrame_trace (h : Handle) (base : Color) (s : State) : (renderFrame h base s).trace = s.trace := rfl
@[simp] theorem renderFrame_ret (h : Handle) (base : Color) (s : State) : (renderFrame h base s).ret = s.ret := rfl
@[simp] theorem renderFrame_fresh (h : Handle) (base : Color) (s : State) : (renderFrame h base s).fresh = s.fresh := rfl

/-! ## signal -/

@[simp] theorem signal_mem (s : State) : (signal s).mem = s.mem := rfl
@[simp] theorem signal_free (s : State) : (signal s).free = s.free := rfl
@[simp] theorem signal_off (s : State) : (signal s).off = s.off := rfl
@[simp] theorem signal_asm (s : State) : (signal s).asm = s.asm := rfl
@[simp] theorem signal_pend (s : State) : (signal s).pend = s.pend := rfl
@[simp] theorem signal_cur (s : State) : (signal s).cur = s.cur := rfl
@[simp] theorem signal_row (s : State) : (signal s).row = s.row := rfl
@[simp] theorem signal_cnt (s : State) : (signal s).cnt = s.cnt := rfl
@[simp] theorem signal_cntReq (s : State) : (signal s).cntReq = s.cntReq + 1 := rfl
@[simp] theorem signal_last (s : State) : (signal s).last = s.last := rfl
@[simp] theorem signal_pal (s : State) : (signal s).pal = s.pal := rfl
@[simp] theorem signal_hold (s : State) : (signal s).hold = s.hold := rfl
@[simp] theorem signal_fault (s : State) : (signal s).fault = s.fault := rfl
@[simp] theorem signal_dispDeadline (s : State) : (signal s).dispDeadline = s.dispDeadline := rfl
@[simp] theorem signal_ssDeadline (s : State) : (signal s).ssDeadline = s.ssDeadline := rfl
@[simp] theorem signal_out (s : State) : (signal s).out = s.out := rfl
@[simp] theorem signal_cfg (s : State) : (signal s).cfg = s.cfg := rfl
@[simp] theorem signal_trace (s : State) : (signal s).trace = s.trace := rfl
@[simp] theorem signal_ret (s : State) : (signal s).ret = s.ret := rfl
@[simp] theorem signal_fresh (s : State) : (signal s).fresh = s.fresh := rfl

/-! ## increment -/

@[simp] theorem increment_mem (s : State) : (increment s).mem = s.mem := rfl
@[simp] theorem increment_free (s : State) : (increment s).free = s.free := rfl
@[simp] theorem increment_off (s : State) : (increment s).off = s.off := rfl
@[simp] theorem increment_asm (s : State) : (increment s).asm = s.asm := rfl
@[simp] theorem increment_pend (s : State) : (increment s).pend = s.pend := rfl
@[simp] theorem increment_cur (s : State) : (increment s).cur = s.cur := rfl
@[simp] theorem increment_row (s : State) : (increment s).row = s.row := rfl
@[simp] theorem increment_cnt (s : State) : (increment s).cnt = (s.cnt + 1) % 2 ^ s.cfg.cw.bits := rfl
@[simp] theorem increment_cntReq (s : State) : (increment s).cntReq = s.cntReq - 1 := rfl
@[simp] theorem increment_last (s : State) : (increment s).last = s.last := rfl
@[simp] theorem increment_pal (s : State) : (increment s).pal = s.pal := rfl
@[simp] theorem increment_hold (s : State) : (increment s).hold = s.hold := rfl
@[simp] theorem increment_fault (s : State) : (increment s).fault = s.fault := rfl
@[simp] theorem increment_dispDeadline (s : State) : (increment s).dispDeadline = s.dispDeadline := rfl
@[simp] theorem increment_ssDeadline (s : State) : (increment s).ssDeadline = s.ssDeadline := rfl
@[simp] theorem increment_out (s : State) : (increment s).out = s.out := rfl
@[simp] theorem increment_cfg (s : State) : (increment s).cfg = s.cfg := rfl
@[simp] theorem increment_trace (s : State) : (increment s).trace = s.trace := rfl
@[simp] theorem increment_ret (s : State) : (increment s).ret = s.ret := rfl
@[simp] theorem increment_fresh (s : State) : (increment s).fresh = s.fresh := rfl

/-! ## emit -/

@[simp] theorem emit_mem (r : Fin 8) (px : Vector Color 8) (s : State) : (emit r px s).mem = s.mem := rfl
@[simp] theorem emit_free (r : Fin 8) (px : Vector Color 8) (s : State) : (emit r px s).free = s.free := rfl
@[simp] theorem emit_off (r : Fin 8) (px : Vector Color 8) (s : State) : (emit r px s).off = s.off := rfl
@[simp] theorem emit_asm (r : Fin 8) (px : Vector Color 8) (s : State) : (emit r px s).asm = s.asm := rfl
@[simp] theorem emit_pend (r : Fin 8) (px : Vector Color 8) (s : State) : (emit r px s).pend = s.pend := rfl
@[simp] theorem emit_cur (r : Fin 8) (px : Vector Color 8) (s : State) : (emit r px s).cur = s.cur := rfl
@[simp] theorem emit_row (r : Fin 8) (px : Vector Color 8) (s : State) : (emit r px s).row = s.row := rfl
@[simp] theorem emit_cnt (r : Fin 8) (px : Vector Color 8) (s : State) : (emit r px s).cnt = s.cnt := rfl
@[simp] theorem emit_cntReq (r : Fin 8) (px : Vector Color 8) (s : State) : (emit r px s).cntReq = s.cntReq := rfl
@[simp] theorem emit_last (r : Fin 8) (px : Vector Color 8) (s : State) : (emit r px s).last = s.last := rfl
@[simp] theorem emit_pal (r : Fin 8) (px : Vector Color 8) (s : State) : (emit r px s).pal = s.pal := rfl
@[simp] theorem emit_hold (r : Fin 8) (px : Vector Color 8) (s : State) : (emit r px s).hold = s.hold := rfl
@[simp] theorem emit_fault (r : Fin 8) (px : Vector Color 8) (s : State) : (emit r px s).fault = s.fault := rfl
@[simp] theorem emit_dispDeadline (r : Fin 8) (px : Vector Color 8) (s : State) : (emit r px s).dispDeadline = s.dispDeadline := rfl
@[simp] theorem emit_ssDeadline (r : Fin 8) (px : Vector Color 8) (s : State) : (emit r px s).ssDeadline = s.ssDeadline := rfl
@[simp] theorem emit_out (r : Fin 8) (px : Vector Color 8) (s : State) : (emit r px s).out = s.out ++ [⟨r, px⟩] := rfl
@[simp] theorem emit_cfg (r : Fin 8) (px : Vector Color 8) (s : State) : (emit r px s).cfg = s.cfg := rfl
@[simp] theorem emit_trace (r : Fin 8) (px : Vector Color 8) (s : State) : (emit r px s).trace = s.trace := rfl
@[simp] theorem emit_ret (r : Fin 8) (px : Vector Color 8) (s : State) : (emit r px s).ret = s.ret := rfl
@[simp] theorem emit_fresh (r : Fin 8) (px : Vector Color 8) (s : State) : (emit r px s).fresh = s.fresh := rfl

/-! ## emitRow -/

@[simp] theorem emitRow_mem (s : State) : (emitRow s).mem = s.mem := rfl
@[simp] theorem emitRow_free (s : State) : (emitRow s).free = s.free := rfl
@[simp] theorem emitRow_off (s : State) : (emitRow s).off = s.off := rfl
@[simp] theorem emitRow_asm (s : State) : (emitRow s).asm = s.asm := rfl
@[simp] theorem emitRow_pend (s : State) : (emitRow s).pend = s.pend := rfl
@[simp] theorem emitRow_cur (s : State) : (emitRow s).cur = s.cur := rfl
@[simp] theorem emitRow_row (s : State) : (emitRow s).row = s.row := rfl
@[simp] theorem emitRow_cnt (s : State) : (emitRow s).cnt = s.cnt := rfl
@[simp] theorem emitRow_cntReq (s : State) : (emitRow s).cntReq = s.cntReq := rfl
@[simp] theorem emitRow_last (s : State) : (emitRow s).last = s.last := rfl
@[simp] theorem emitRow_pal (s : State) : (emitRow s).pal = s.pal := rfl
@[simp] theorem emitRow_hold (s : State) : (emitRow s).hold = s.hold := rfl
@[simp] theorem emitRow_fault (s : State) : (emitRow s).fault = s.fault := rfl
@[simp] theorem emitRow_dispDeadline (s : State) : (emitRow s).dispDeadline = s.dispDeadline := rfl
@[simp] theorem emitRow_ssDeadline (s : State) : (emitRow s).ssDeadline = s.ssDeadline := rfl
@[simp] theorem emitRow_out (s : State) : (emitRow s).out = s.out ++ [⟨s.row, rowPixels s.cur s.row s⟩] := rfl
@[simp] theorem emitRow_cfg (s : State) : (emitRow s).cfg = s.cfg := rfl
@[simp] theorem emitRow_trace (s : State) : (emitRow s).trace = s.trace := rfl
@[simp] theorem emitRow_ret (s : State) : (emitRow s).ret = s.ret := rfl
@[simp] theorem emitRow_fresh (s : State) : (emitRow s).fresh = s.fresh := rfl

/-! ## advancePalette -/

@[simp] theorem advancePalette_mem (s : State) : (advancePalette s).mem = s.mem := rfl
@[simp] theorem advancePalette_free (s : State) : (advancePalette s).free = s.free := rfl
@[simp] theorem advancePalette_off (s : State) : (advancePalette s).off = s.off := rfl
@[simp] theorem advancePalette_asm (s : State) : (advancePalette s).asm = s.asm := rfl
@[simp] theorem advancePalette_pend (s : State) : (advancePalette s).pend = s.pend := rfl
@[simp] theorem advancePalette_cur (s : State) : (advancePalette s).cur = s.cur := rfl
@[simp] theorem advancePalette_row (s : State) : (advancePalette s).row = s.row := rfl
@[simp] theorem advancePalette_cnt (s : State) : (advancePalette s).cnt = s.cnt := rfl
@[simp] theorem advancePalette_cntReq (s : State) : (advancePalette s).cntReq = s.cntReq := rfl
@[simp] theorem advancePalette_last (s : State) : (advancePalette s).last = s.last := rfl
@[simp] theorem advancePalette_pal (s : State) : (advancePalette s).pal = s.pal + 1 := rfl
@[simp] theorem advancePalette_hold (s : State) : (advancePalette s).hold = s.hold := rfl
@[simp] theorem advancePalette_fault (s : State) : (advancePalette s).fault = s.fault := rfl
@[simp] theorem advancePalette_dispDeadline (s : State) : (advancePalette s).dispDeadline = s.dispDeadline := rfl
@[simp] theorem advancePalette_ssDeadline (s : State) : (advancePalette s).ssDeadline = s.ssDeadline + 1 := rfl
@[simp] theorem advancePalette_out (s : State) : (advancePalette s).out = s.out := rfl
@[simp] theorem advancePalette_cfg (s : State) : (advancePalette s).cfg = s.cfg := rfl
@[simp] theorem advancePalette_trace (s : State) : (advancePalette s).trace = s.trace := rfl
@[simp] theorem advancePalette_ret (s : State) : (advancePalette s).ret = s.ret := rfl
@[simp] theorem advancePalette_fresh (s : State) : (advancePalette s).fresh = s.fresh := rfl

/-! ## take_state -/

@[simp] theorem take_state_mem (s : State) : (take s).2.mem = s.mem := rfl
@[simp] theorem take_state_free (s : State) : (take s).2.free = s.free := rfl
@[simp] theorem take_state_off (s : State) : (take s).2.off = s.off := rfl
@[simp] theorem take_state_asm (s : State) : (take s).2.asm = s.asm := rfl
@[simp] theorem take_state_pend (s : State) : (take s).2.pend = none := rfl
@[simp] theorem take_state_cur (s : State) : (take s).2.cur = s.cur := rfl
@[simp] theorem take_state_row (s : State) : (take s).2.row = s.row := rfl
@[simp] theorem take_state_cnt (s : State) : (take s).2.cnt = s.cnt := rfl
@[simp] theorem take_state_cntReq (s : State) : (take s).2.cntReq = s.cntReq := rfl
@[simp] theorem take_state_last (s : State) : (take s).2.last = s.last := rfl
@[simp] theorem take_state_pal (s : State) : (take s).2.pal = s.pal := rfl
@[simp] theorem take_state_hold (s : State) : (take s).2.hold = s.hold := rfl
@[simp] theorem take_state_fault (s : State) : (take s).2.fault = s.fault := rfl
@[simp] theorem take_state_dispDeadline (s : State) : (take s).2.dispDeadline = s.dispDeadline := rfl
@[simp] theorem take_state_ssDeadline (s : State) : (take s).2.ssDeadline = s.ssDeadline := rfl
@[simp] theorem take_state_out (s : State) : (take s).2.out = s.out := rfl
@[simp] theorem take_state_cfg (s : State) : (take s).2.cfg = s.cfg := rfl
@[simp] theorem take_state_trace (s : State) : (take s).2.trace = s.trace := rfl
@[simp] theorem take_state_ret (s : State) : (take s).2.ret = s.ret := rfl
@[simp] theorem take_state_fresh (s : State) : (take s).2.fresh = s.fresh := rfl

@[simp] theorem take_result (s : State) : (take s).1 = s.pend := rfl

/-! ## resetFrom -/

@[simp] theorem resetFrom_mem (s : State) : (resetFrom s).mem = writeFrameBytes s.cfg.rxchan 0 (framePixel s.cfg.resetFrame) [] := rfl
@[simp] theorem resetFrom_free (s : State) : (resetFrom s).free = ⟨false, false, true⟩ := rfl
@[simp] theorem resetFrom_off (s : State) : (resetFrom s).off = 0 := rfl
@[simp] theorem resetFrom_asm (s : State) : (resetFrom s).asm = 1 := rfl
@[simp] theorem resetFrom_pend (s : State) : (resetFrom s).pend = none := rfl
@[simp] theorem resetFrom_cur (s : State) : (resetFrom s).cur = 0 := rfl
@[simp] theorem resetFrom_row (s : State) : (resetFrom s).row = 0 := rfl
@[simp] theorem resetFrom_cnt (s : State) : (resetFrom s).cnt = 0 := rfl
@[simp] theorem resetFrom_cntReq (s : State) : (resetFrom s).cntReq = 0 := rfl
@[simp] theorem resetFrom_last (s : State) : (resetFrom s).last = 0 := rfl
@[simp] theorem resetFrom_pal (s : State) : (resetFrom s).pal = 0 := rfl
@[simp] theorem resetFrom_hold (s : State) : (resetFrom s).hold = none := rfl
@[simp] theorem resetFrom_fault (s : State) : (resetFrom s).fault = .noFault := rfl
@[simp] theorem resetFrom_dispDeadline (s : State) : (resetFrom s).dispDeadline = 0 := rfl
@[simp] theorem resetFrom_ssDeadline (s : State) : (resetFrom s).ssDeadline = 0 := rfl
@[simp] theorem resetFrom_out (s : State) : (resetFrom s).out = [] := rfl
@[simp] theorem resetFrom_cfg (s : State) : (resetFrom s).cfg = s.cfg := rfl
@[simp] theorem resetFrom_trace (s : State) : (resetFrom s).trace = s.trace := rfl
@[simp] theorem resetFrom_ret (s : State) : (resetFrom s).ret = none := rfl
@[simp] theorem resetFrom_fresh (s : State) : (resetFrom s).fresh = s.fresh + 1 := rfl

/-! ## raisePoolExhausted -/

@[simp] theorem raisePoolExhausted_mem (who : Caller) (s : State) : (raisePoolExhausted who s).mem = [] := rfl
@[simp] theorem raisePoolExhausted_fault (who : Caller) (s : State) : (raisePoolExhausted who s).fault = faultOf who := rfl
@[simp] theorem raisePoolExhausted_out (who : Caller) (s : State) : (raisePoolExhausted who s).out = s.out := rfl
@[simp] theorem raisePoolExhausted_cfg (who : Caller) (s : State) : (raisePoolExhausted who s).cfg = s.cfg := rfl
@[simp] theorem raisePoolExhausted_trace (who : Caller) (s : State) : (raisePoolExhausted who s).trace = s.trace := rfl
@[simp] theorem raisePoolExhausted_ret (who : Caller) (s : State) : (raisePoolExhausted who s).ret = s.ret := rfl
@[simp] theorem raisePoolExhausted_fresh (who : Caller) (s : State) : (raisePoolExhausted who s).fresh = s.fresh + 1 := rfl
@[simp] theorem raisePoolExhausted_cnt (who : Caller) (s : State) : (raisePoolExhausted who s).cnt = Config.unspecifiedCnt s.fresh % 2 ^ s.cfg.cw.bits := rfl
@[simp] theorem raisePoolExhausted_last (who : Caller) (s : State) : (raisePoolExhausted who s).last = Config.unspecifiedLast s.fresh % 2 ^ s.cfg.cw.bits := rfl

/-! ## resetWith -/

@[simp] theorem resetWith_mem (cfg : Config) : (State.resetWith cfg).mem = writeFrameBytes cfg.rxchan 0 (framePixel cfg.resetFrame) [] := rfl
@[simp] theorem resetWith_free (cfg : Config) : (State.resetWith cfg).free = ⟨false, false, true⟩ := rfl
@[simp] theorem resetWith_off (cfg : Config) : (State.resetWith cfg).off = 0 := rfl
@[simp] theorem resetWith_asm (cfg : Config) : (State.resetWith cfg).asm = 1 := rfl
@[simp] theorem resetWith_pend (cfg : Config) : (State.resetWith cfg).pend = none := rfl
@[simp] theorem resetWith_cur (cfg : Config) : (State.resetWith cfg).cur = 0 := rfl
@[simp] theorem resetWith_row (cfg : Config) : (State.resetWith cfg).row = 0 := rfl
@[simp] theorem resetWith_cnt (cfg : Config) : (State.resetWith cfg).cnt = 0 := rfl
@[simp] theorem resetWith_cntReq (cfg : Config) : (State.resetWith cfg).cntReq = 0 := rfl
@[simp] theorem resetWith_last (cfg : Config) : (State.resetWith cfg).last = 0 := rfl
@[simp] theorem resetWith_pal (cfg : Config) : (State.resetWith cfg).pal = 0 := rfl
@[simp] theorem resetWith_hold (cfg : Config) : (State.resetWith cfg).hold = none := rfl
@[simp] theorem resetWith_fault (cfg : Config) : (State.resetWith cfg).fault = .noFault := rfl
@[simp] theorem resetWith_dispDeadline (cfg : Config) : (State.resetWith cfg).dispDeadline = 0 := rfl
@[simp] theorem resetWith_ssDeadline (cfg : Config) : (State.resetWith cfg).ssDeadline = 0 := rfl
@[simp] theorem resetWith_out (cfg : Config) : (State.resetWith cfg).out = [] := rfl
@[simp] theorem resetWith_cfg (cfg : Config) : (State.resetWith cfg).cfg = cfg := rfl
@[simp] theorem resetWith_trace (cfg : Config) : (State.resetWith cfg).trace = [] := rfl
@[simp] theorem resetWith_ret (cfg : Config) : (State.resetWith cfg).ret = none := rfl
@[simp] theorem resetWith_fresh (cfg : Config) : (State.resetWith cfg).fresh = 0 := rfl

end Sys2Proof.Machine
end

