-- ==== Sys2Proof/Laws/Memory.lean ====
section
/-! SUPPORT. The pool space: read after write, read after forget, and the canonical form that every memory
operation keeps. -/

namespace Sys2Proof.Machine

@[simp] theorem Memory.lookup_nil (x : Nat) : Memory.lookup [] x = none := rfl

/-- A read after a write: the written byte at its address, every other address as before (R65). -/
@[simp] theorem lookup_write (m : Memory) (x : Nat) (v : Byte) (y : Nat) :
    Memory.lookup (Memory.write m x v) y = if y = x then some v else Memory.lookup m y := by
  induction m with
  | nil => simp [Memory.write, Memory.lookup]
  | cons c m ih =>
    obtain ⟨a, b⟩ := c
    simp only [Memory.write]
    split
    · simp [Memory.lookup]
    · split
      · subst_vars
        simp only [Memory.lookup]
        split <;> rfl
      · simp only [Memory.lookup, ih]
        by_cases h : y = a
        · subst h
          simp [show ¬ y = x by omega]
        · simp [h]

/-- A read after a forget: nothing in the slot, every other address as before. -/
@[simp] theorem lookup_forget (h : Handle) (m : Memory) (y : Nat) :
    Memory.lookup (Memory.forget h m) y = if inSlot h y then none else Memory.lookup m y := by
  induction m with
  | nil => simp [Memory.forget]
  | cons c m ih =>
    obtain ⟨a, b⟩ := c
    simp only [Memory.forget] at ih ⊢
    by_cases ha : inSlot h a
    · simp only [List.filter_cons, ha, Bool.not_true, Bool.false_eq_true, if_false, ih, Memory.lookup]
      by_cases hy : y = a
      · subst hy; simp [ha]
      · simp [hy]
    · simp only [List.filter_cons, ha, Bool.not_false, if_true, Memory.lookup, ih]
      by_cases hy : y = a
      · subst hy; simp [ha]
      · simp [hy]

theorem mem_write {m : Memory} {x : Nat} {v : Byte} {c : Host.Cell} (h : c ∈ Memory.write m x v) :
    c = (x, v) ∨ c ∈ m := by
  induction m with
  | nil => simpa [Memory.write] using h
  | cons d m ih =>
    simp only [Memory.write] at h
    split at h
    · simpa using h
    · split at h
      · rcases List.mem_cons.mp h with h | h
        · exact .inl h
        · exact .inr (List.mem_cons_of_mem _ h)
      · rcases List.mem_cons.mp h with h | h
        · exact .inr (h ▸ List.mem_cons_self)
        · exact (ih h).imp_right (List.mem_cons_of_mem _)

theorem wf_nil : Memory.wf [] := by simp [Memory.wf]

/-- A write keeps the canonical form. -/
theorem wf_write {m : Memory} {x : Nat} (v : Byte) (hm : Memory.wf m) (hx : x < poolBytes) :
    Memory.wf (Memory.write m x v) := by
  refine ⟨?_, fun c hc => (mem_write hc).elim (fun h => h ▸ hx) (hm.2 c)⟩
  have hp := hm.1
  clear hm
  induction m with
  | nil => simp [Memory.write]
  | cons d m ih =>
    have hd := List.pairwise_cons.mp hp
    simp only [Memory.write]
    split
    · rename_i hlt
      refine List.pairwise_cons.mpr ⟨fun c hc => ?_, hp⟩
      rcases List.mem_cons.mp hc with h | h
      · exact h ▸ hlt
      · exact Nat.lt_trans hlt (hd.1 c h)
    · split
      · rename_i heq
        exact List.pairwise_cons.mpr ⟨fun c hc => by simpa [heq] using hd.1 c hc, hd.2⟩
      · rename_i hnl hne
        refine List.pairwise_cons.mpr ⟨fun c hc => ?_, ih hd.2⟩
        rcases mem_write hc with h | h
        · subst h; dsimp only; omega
        · exact hd.1 c h

/-- A forget keeps the canonical form. -/
theorem wf_forget {m : Memory} (h : Handle) (hm : Memory.wf m) : Memory.wf (Memory.forget h m) :=
  ⟨hm.1.filter _, fun c hc => hm.2 c (List.mem_of_mem_filter hc)⟩

end Sys2Proof.Machine
end

