-- ==== Sys2Proof/Laws/Layout.lean ====
section
/-! SUPPORT. Addresses, the layout of a frame, the free bitmap, the acquire policy: one lemma per function. -/

namespace Sys2Proof.Machine

/-! ## Addresses -/

theorem addr_lt (h : Handle) {o : Nat} (ho : o < frameBytes) : addr h o < poolBytes := by
  have := h.isLt
  simp only [addr, frameBytes, poolBytes] at *
  omega

/-- Slots do not overlap (R60: no address arithmetic crosses from one slot into another). -/
theorem addr_eq_iff {h g : Handle} {o p : Nat} (ho : o < frameBytes) (hp : p < frameBytes) :
    addr h o = addr g p ↔ h = g ∧ o = p := by
  simp only [addr, frameBytes, Fin.ext_iff] at *
  omega

theorem inSlot_addr {h g : Handle} {o : Nat} (ho : o < frameBytes) : inSlot g (addr h o) = decide (h = g) := by
  have h1 : (frameBytes * g.val ≤ addr h o ∧ addr h o < frameBytes * g.val + frameBytes) ↔ h = g := by
    simp only [addr, frameBytes, Fin.ext_iff] at *
    omega
  rw [inSlot, ← Bool.decide_and]
  exact decide_eq_decide.mpr h1

/-- Every address of the pool space is a pair (slot, offset) (R60). -/
theorem exists_addr {a : Nat} (ha : a < poolBytes) : ∃ (h : Handle) (o : Nat), o < frameBytes ∧ a = addr h o := by
  refine ⟨⟨a / 192, ?_⟩, a % 192, ?_, ?_⟩ <;> simp only [addr, frameBytes, poolBytes] at * <;> omega

theorem inSlot_iff {h : Handle} {a : Nat} : inSlot h a = true ↔ ∃ o, o < frameBytes ∧ a = addr h o := by
  simp only [inSlot, addr, frameBytes, Bool.and_eq_true, decide_eq_true_eq]
  constructor
  · intro ha
    exact ⟨a - 192 * h.val, by omega, by omega⟩
  · rintro ⟨o, ho, rfl⟩
    omega

/-! ## The layout of a frame (R62) -/

theorem pixelOffset_lt (r c : Fin 8) (k : Fin 3) : pixelOffset r c k < frameBytes := by
  have := r.isLt
  have := c.isLt
  have := k.isLt
  simp only [pixelOffset, frameBytes]
  omega

theorem pixelOffset_inj {r c r' c' : Fin 8} {k k' : Fin 3} :
    pixelOffset r c k = pixelOffset r' c' k' ↔ r = r' ∧ c = c' ∧ k = k' := by
  have := c.isLt
  have := c'.isLt
  have := k.isLt
  have := k'.isLt
  simp only [pixelOffset, Fin.ext_iff]
  omega

theorem exists_pixelOffset {o : Nat} (ho : o < frameBytes) : ∃ r c k, o = pixelOffset r c k := by
  simp only [frameBytes] at ho
  refine ⟨⟨o / 24, by omega⟩, ⟨(o / 3) % 8, by omega⟩, ⟨o % 3, by omega⟩, ?_⟩
  simp only [pixelOffset]
  omega

@[simp] theorem offsetRow_pixelOffset (r c : Fin 8) (k : Fin 3) : offsetRow (pixelOffset r c k) = r.val := by
  have := c.isLt
  have := k.isLt
  simp only [offsetRow, pixelOffset]
  omega

@[simp] theorem offsetCol_pixelOffset (r c : Fin 8) (k : Fin 3) : offsetCol (pixelOffset r c k) = c.val := by
  have := c.isLt
  have := k.isLt
  simp only [offsetCol, pixelOffset]
  omega

@[simp] theorem offsetChannelNumber_pixelOffset (r c : Fin 8) (k : Fin 3) :
    offsetChannelNumber (pixelOffset r c k) = k.val := by
  have := k.isLt
  simp only [offsetChannelNumber, pixelOffset]
  omega

/-- RXCHAN is a bijection (R5). -/
@[simp] theorem channelNumber_rxchan (order : ChannelOrder) (k : Fin 3) : channelNumber order (rxchan order k) = k := by
  cases order <;> revert k <;> decide

@[simp] theorem rxchan_channelNumber (order : ChannelOrder) (c : Channel) : rxchan order (channelNumber order c) = c := by
  cases order <;> cases c <;> decide

/-- A colour written and read back in the same channel order is the same colour (R63, R198). -/
@[simp] theorem colorOfBytes_colorByte (order : ChannelOrder) (color : Color) :
    colorOfBytes order (colorByte order color) = color := by
  simp [colorOfBytes, colorByte, colorChannel]

theorem mem_zeroToSeven (r : Fin 8) : r ∈ zeroToSeven := by
  revert r; decide

theorem lookup_writePixelBytes (order : ChannelOrder) (h : Handle) (r c : Fin 8) (color : Color) (m : Memory)
    (r' c' : Fin 8) (k : Fin 3) :
    Memory.lookup (writePixelBytes order h r c color m) (addr h (pixelOffset r' c' k)) =
      if r' = r ∧ c' = c then some (colorByte order color k) else Memory.lookup m (addr h (pixelOffset r' c' k)) := by
  simp only [writePixelBytes, lookup_write, addr_eq_iff (pixelOffset_lt _ _ _) (pixelOffset_lt _ _ _), true_and,
    pixelOffset_inj]
  by_cases hrc : r' = r ∧ c' = c
  · obtain ⟨rfl, rfl⟩ := hrc
    match k with
    | 0 => simp
    | 1 => simp
    | 2 => simp
  · have : ∀ j : Fin 3, ¬(r' = r ∧ c' = c ∧ k = j) := fun j hj => hrc ⟨hj.1, hj.2.1⟩
    simp [this, hrc]

theorem lookup_writePixelBytes_other (order : ChannelOrder) (h : Handle) (r c : Fin 8) (color : Color) (m : Memory)
    {a : Nat} (ha : inSlot h a = false) :
    Memory.lookup (writePixelBytes order h r c color m) a = Memory.lookup m a := by
  have hne : ∀ k, a ≠ addr h (pixelOffset r c k) := by
    rintro k rfl
    simp [inSlot_addr (pixelOffset_lt r c k)] at ha
  simp [writePixelBytes, hne]

theorem wf_writePixelBytes (order : ChannelOrder) (h : Handle) (r c : Fin 8) (color : Color) {m : Memory}
    (hm : Memory.wf m) : Memory.wf (writePixelBytes order h r c color m) :=
  wf_write _ (wf_write _ (wf_write _ hm (addr_lt h (pixelOffset_lt ..))) (addr_lt h (pixelOffset_lt ..)))
    (addr_lt h (pixelOffset_lt ..))

theorem lookup_foldCols (order : ChannelOrder) (h : Handle) (r : Fin 8) (pix : Fin 8 → Color) (cs : List (Fin 8))
    (m : Memory) (r' c' : Fin 8) (k : Fin 3) :
    Memory.lookup (cs.foldl (fun m col => writePixelBytes order h r col (pix col) m) m) (addr h (pixelOffset r' c' k)) =
      if r' = r ∧ c' ∈ cs then some (colorByte order (pix c') k)
      else Memory.lookup m (addr h (pixelOffset r' c' k)) := by
  induction cs generalizing m with
  | nil => simp
  | cons c cs ih =>
    simp only [List.foldl_cons, ih, lookup_writePixelBytes, List.mem_cons]
    by_cases h1 : r' = r
    · by_cases h2 : c' ∈ cs
      · simp [h1, h2]
      · by_cases h3 : c' = c
        · simp [h1, h3]
        · simp [h1, h2, h3]
    · simp [h1]

theorem lookup_foldRows (order : ChannelOrder) (h : Handle) (pix : Fin 8 → Fin 8 → Color) (rs : List (Fin 8))
    (m : Memory) (r' c' : Fin 8) (k : Fin 3) :
    Memory.lookup (rs.foldl (fun m row => zeroToSeven.foldl
        (fun m col => writePixelBytes order h row col (pix row col) m) m) m) (addr h (pixelOffset r' c' k)) =
      if r' ∈ rs then some (colorByte order (pix r' c') k)
      else Memory.lookup m (addr h (pixelOffset r' c' k)) := by
  induction rs generalizing m with
  | nil => simp
  | cons r rs ih =>
    simp only [List.foldl_cons, ih, lookup_foldCols, mem_zeroToSeven, and_true, List.mem_cons]
    by_cases h1 : r' ∈ rs
    · simp [h1]
    · by_cases h2 : r' = r
      · simp [h2]
      · simp [h1, h2]

/-- After a frame is written, each byte of the slot is the byte of its pixel and channel (R62, R197, R198). -/
theorem lookup_writeFrameBytes (order : ChannelOrder) (h : Handle) (pix : Fin 8 → Fin 8 → Color) (m : Memory)
    (r c : Fin 8) (k : Fin 3) :
    Memory.lookup (writeFrameBytes order h pix m) (addr h (pixelOffset r c k)) =
      some (colorByte order (pix r c) k) := by
  unfold writeFrameBytes
  rw [lookup_foldRows, if_pos (mem_zeroToSeven r)]

/-- Any property that each pixel store keeps holds after a whole frame. -/
theorem writeFrameBytes_keeps (P : Memory → Prop) (order : ChannelOrder) (h : Handle) (pix : Fin 8 → Fin 8 → Color)
    (keep : ∀ r c m, P m → P (writePixelBytes order h r c (pix r c) m)) {m : Memory} (hm : P m) :
    P (writeFrameBytes order h pix m) := by
  unfold writeFrameBytes
  refine List.foldlRecOn (motive := P) zeroToSeven _ hm fun m hm r _ => ?_
  exact List.foldlRecOn (motive := P) zeroToSeven _ hm fun m hm c _ => keep r c m hm

/-- Writing a frame leaves the other slots alone (R65). -/
theorem lookup_writeFrameBytes_other (order : ChannelOrder) (h : Handle) (pix : Fin 8 → Fin 8 → Color) (m : Memory)
    {a : Nat} (ha : inSlot h a = false) :
    Memory.lookup (writeFrameBytes order h pix m) a = Memory.lookup m a :=
  writeFrameBytes_keeps (fun m' => Memory.lookup m' a = Memory.lookup m a) order h pix
    (fun r c m' hm' => (lookup_writePixelBytes_other order h r c _ m' ha).trans hm') rfl

/-- Writing a frame keeps the canonical form. -/
theorem wf_writeFrameBytes (order : ChannelOrder) (h : Handle) (pix : Fin 8 → Fin 8 → Color) {m : Memory}
    (hm : Memory.wf m) : Memory.wf (writeFrameBytes order h pix m) :=
  writeFrameBytes_keeps Memory.wf order h pix (fun _ _ _ hm' => wf_writePixelBytes _ _ _ _ _ hm') hm

/-- A written frame has no unspecified byte. -/
theorem isSome_lookup_writeFrameBytes (order : ChannelOrder) (h : Handle) (pix : Fin 8 → Fin 8 → Color) (m : Memory)
    {o : Nat} (ho : o < frameBytes) : (Memory.lookup (writeFrameBytes order h pix m) (addr h o)).isSome = true := by
  obtain ⟨r, c, k, rfl⟩ := exists_pixelOffset ho
  simp [lookup_writeFrameBytes]

/-! ## The free bitmap and the acquire policy -/

@[simp] theorem freeGet_freeSet (f : FreeMap) (h g : Handle) (b : Bool) :
    freeGet (freeSet f h b) g = if g = h then b else freeGet f g := by
  revert h g; simp only [Fin.forall_fin_succ, Fin.forall_fin_zero]
  simp [freeGet, freeSet]

/-- A chosen slot was free (R121). -/
theorem choose_some {p : AcquirePolicy} {f : FreeMap} {h : Handle} (hc : choose p f = some h) : freeGet f h = true := by
  obtain ⟨b0, b1, b2⟩ := f
  obtain ⟨l01, l02, l12, all⟩ := p
  revert hc
  revert h all
  cases b0 <;> cases b1 <;> cases b2 <;> cases l01 <;> cases l02 <;> cases l12 <;> decide

/-- No slot is chosen exactly when none is free (R121). -/
theorem choose_none_iff {p : AcquirePolicy} {f : FreeMap} :
    choose p f = none ↔ ∀ h : Handle, freeGet f h = false := by
  obtain ⟨b0, b1, b2⟩ := f
  simp only [Fin.forall_fin_succ, Fin.forall_fin_zero]
  cases b0 <;> cases b1 <;> cases b2 <;> simp [choose, freeGet]

/-- When exactly one slot is free, the policy has no choice (R125). -/
theorem choose_forced (p : AcquirePolicy) {f : FreeMap} {h : Handle} (hf : ∀ g, freeGet f g = true ↔ g = h) :
    choose p f = some h := by
  cases hc : choose p f with
  | none => exact absurd ((hf h).mpr rfl) (by simp [choose_none_iff.mp hc h])
  | some g => rw [(hf g).mp (choose_some hc)]

end Sys2Proof.Machine
end

