-- ==== Sys2Proof/Laws/Ops.lean ====
section
/-! SUPPORT. One lemma per shared operation: everything it can do. -/

namespace Sys2Proof.Machine

@[simp] theorem andThen_next (s : State) (f : State → Outcome) : andThen (.next s) f = f s := rfl
@[simp] theorem andThen_refused (r : Refusal) (f : State → Outcome) : andThen (.refused r) f = .refused r := rfl

/-- A sequence reaches a next state through a next state of its first part. -/
theorem andThen_eq_next {o : Outcome} {f : State → Outcome} {t : State} :
    andThen o f = .next t ↔ ∃ s, o = .next s ∧ f s = .next t := by
  cases o <;> simp [andThen]

@[simp] theorem returning_next (r : Option Result) (s : State) : returning r (.next s) = .next { s with ret := r } := rfl
@[simp] theorem returning_refused (r : Option Result) (w : Refusal) : returning r (.refused w) = .refused w := rfl

/-- An operation that has a next state was enabled, and its effect is that state. -/
theorem whenEnabled_eq_next {i : Instr} {s t : State} {o : Outcome} :
    whenEnabled i s o = .next t ↔ enabled i s = true ∧ o = .next t := by
  unfold whenEnabled
  split <;> simp_all

theorem whenEnabled_pos {i : Instr} {s : State} (o : Outcome) (h : enabled i s = true) : whenEnabled i s o = o := by
  simp [whenEnabled, h]

@[simp] theorem faulted_eq_false {s : State} : faulted s = false ↔ s.fault = .noFault := by
  simp [faulted]

@[simp] theorem faulted_eq_true {s : State} : faulted s = true ↔ s.fault ≠ .noFault := by
  simp [faulted]

/-- MemWrite inside the slot (R65). -/
theorem memWrite_lt {h : Handle} {o : Nat} (v : Byte) (s : State) (ho : o < frameBytes) :
    memWrite h o v s = .next (storeByte h o v s) := by
  simp [memWrite, ho]

/-- Acquire: exhausted, or one free slot leaves the free set and nothing else changes (R121). -/
theorem acquire_cases (s : State) :
    (acquire s = none ∧ ∀ h : Handle, freeGet s.free h = false) ∨
    ∃ h : Handle, freeGet s.free h = true ∧ acquire s = some (h, { s with free := freeSet s.free h false }) := by
  unfold acquire
  cases hc : choose s.cfg.policy s.free with
  | none => exact .inl ⟨rfl, choose_none_iff.mp hc⟩
  | some h => exact .inr ⟨h, choose_some hc, rfl⟩

theorem acquire_none {s : State} (hf : ∀ h : Handle, freeGet s.free h = false) : acquire s = none := by
  simp [acquire, choose_none_iff.mpr hf]

/-- With exactly one free slot the acquire takes it, whatever the policy (R125). -/
theorem acquire_forced {s : State} {h : Handle} (hf : ∀ g, freeGet s.free g = true ↔ g = h) :
    acquire s = some (h, { s with free := freeSet s.free h false }) := by
  simp [acquire, choose_forced _ hf]

/-- Release: the slot was outstanding, becomes free, and its bytes become unspecified (R122, R123). -/
theorem release_eq_next {h : Handle} {s t : State} :
    release h s = .next t ↔ freeGet s.free h = false ∧
      { s with free := freeSet s.free h true, mem := s.mem.forget h, fresh := s.fresh + 1 } = t := by
  unfold release
  cases freeGet s.free h <;> simp

theorem release_held {h : Handle} {s : State} (hf : freeGet s.free h = false) :
    release h s = .next { s with free := freeSet s.free h true, mem := s.mem.forget h, fresh := s.fresh + 1 } := by
  simp [release, hf]

/-- Install into an empty slot releases nothing (R136). -/
theorem install_empty {h : Handle} {s : State} (hf : freeGet s.free h = false) (hp : s.pend = none) :
    install h s = .next { s with pend := some h } := by
  simp [install, hf, hp]

/-- Install into an occupied slot releases exactly the displaced frame (R136). -/
theorem install_full {h g : Handle} {s : State} (hf : freeGet s.free h = false) (hg : freeGet s.free g = false)
    (hp : s.pend = some g) (hne : g ≠ h) :
    install h s = .next { s with pend := some h, free := freeSet s.free g true, mem := s.mem.forget g,
                                 fresh := s.fresh + 1 } := by
  simp [install, hf, hp, hne, release_held hg]

/-- Everything a successful install does (R136). -/
theorem install_cases {h : Handle} {s t : State} (hi : install h s = .next t) :
    freeGet s.free h = false ∧
    ((s.pend = none ∧ t = { s with pend := some h }) ∨
     ∃ g, s.pend = some g ∧ g ≠ h ∧ freeGet s.free g = false ∧
       t = { s with pend := some h, free := freeSet s.free g true, mem := s.mem.forget g, fresh := s.fresh + 1 }) := by
  unfold install at hi
  split at hi
  · simp at hi
  · rename_i hc
    rw [not_or] at hc
    refine ⟨by simpa using hc.1, ?_⟩
    split at hi
    · rename_i hp
      exact .inl ⟨hp, by simpa using hi.symm⟩
    · rename_i g hp
      obtain ⟨s1, h1, h2⟩ := andThen_eq_next.mp hi
      obtain ⟨hg, rfl⟩ := release_eq_next.mp h1
      refine .inr ⟨g, hp, fun e => hc.2 (e ▸ hp), hg, by simpa using h2.symm⟩

/-- The head of the trace is what step decodes (R10). -/
theorem step_cons {s : State} {c : Coded} {rest : List Coded} {i : Instr} (ht : s.trace = c :: rest)
    (hd : decode c = .ok i) :
    step s = if ignoredUnderFault c { s with trace := rest } then .next { s with trace := rest }
             else exec i { s with trace := rest } := by
  simp [step, nextOffer, ht, hd]

end Sys2Proof.Machine
end

