-- ==== Sys2Proof/Laws/Exec.lean ====
section
/-! SUPPORT. One inversion lemma per step: if it answers a next state, then it was enabled and the next state is
one of these. -/

namespace Sys2Proof.Machine

theorem exec_rxSync {s : State} (hf : s.fault = .noFault) : exec .rxSync s = .next { s with off := 0 } := by
  simp [exec, execRxSync, whenEnabled, enabled, hf]

theorem exec_rxSync_inv {s t : State} (h : exec .rxSync s = .next t) :
    s.fault = .noFault ∧ t = { s with off := 0 } := by
  obtain ⟨he, ht⟩ := whenEnabled_eq_next.mp h
  exact ⟨by simpa [enabled] using he, by simpa using ht.symm⟩

theorem exec_rxData {d : Byte} {s : State} (hf : s.fault = .noFault) (hd : d ≠ sentinel) :
    exec (.rxData d) s = receiveByte d s := by
  simp only [exec, execRxData]
  rw [whenEnabled_pos _ (by simp [enabled, hf]), if_neg hd]

/-- A byte below the last one: stored, cursor advanced (R157). -/
theorem receiveByte_lt {d : Byte} {s : State} (h : s.off.toNat < 191) :
    receiveByte d s = .next { s with mem := s.mem.write (storeAddr s) d, off := s.off + 1 } := by
  unfold receiveByte
  rw [memWrite_lt _ _ (by simp only [frameBytes]; omega), andThen_next,
    if_pos (by simp only [storeByte_off, frameBytes]; omega)]
  rfl

/-- The last byte: stored, then the completion sequence (R157). -/
theorem receiveByte_last {d : Byte} {s : State} (h : s.off.toNat = 191) :
    receiveByte d s = completeFrame { s with mem := s.mem.write (storeAddr s) d } := by
  unfold receiveByte
  rw [memWrite_lt _ _ (by simp only [frameBytes]; omega), andThen_next,
    if_neg (by simp only [storeByte_off, frameBytes]; omega)]
  rfl

theorem exec_rxData_inv {d : Byte} {s t : State} (h : exec (.rxData d) s = .next t) :
    s.fault = .noFault ∧ d ≠ sentinel ∧
    ((s.off.toNat < 191 ∧ t = { s with mem := s.mem.write (storeAddr s) d, off := s.off + 1 }) ∨
     (s.off.toNat = 191 ∧ completeFrame { s with mem := s.mem.write (storeAddr s) d } = .next t)) := by
  obtain ⟨he, ht⟩ := whenEnabled_eq_next.mp h
  have hf : s.fault = .noFault := by simpa [enabled] using he
  split at ht
  · cases ht
  · refine ⟨hf, by assumption, ?_⟩
    rcases Nat.lt_trichotomy s.off.toNat 191 with ho | ho | ho
    · rw [receiveByte_lt ho] at ht
      exact .inl ⟨ho, by simpa using ht.symm⟩
    · rw [receiveByte_last ho] at ht
      exact .inr ⟨ho, ht⟩
    · have hn : ¬s.off.toNat < frameBytes := by simp only [frameBytes]; omega
      simp [receiveByte, memWrite, hn] at ht

/-- The completion sequence: an install, then the fault or the hand-over (R158). -/
theorem completeFrame_inv {s t : State} (h : completeFrame s = .next t) :
    ∃ u, install s.asm s = .next u ∧
      ((∀ g, freeGet u.free g = false) ∧ t = raisePoolExhausted .rx u ∨
       ∃ g, freeGet u.free g = true ∧
         t = { u with free := freeSet u.free g false, asm := g, off := 0, cntReq := u.cntReq + 1 }) := by
  obtain ⟨u, hu, ht⟩ := andThen_eq_next.mp h
  refine ⟨u, hu, ?_⟩
  rcases acquire_cases u with ⟨ha, hn⟩ | ⟨g, hg, ha⟩
  · rw [ha] at ht
    exact .inl ⟨hn, by simpa using ht.symm⟩
  · rw [ha] at ht
    exact .inr ⟨g, hg, by simpa [signal] using ht.symm⟩

theorem exec_dispTick_inv {s t : State} (h : exec .dispTick s = .next t) :
    s.fault = .noFault ∧
    ((s.row.val < 7 ∧ t = { s with out := s.out ++ [⟨s.row, rowPixels s.cur s.row s⟩], row := s.row + 1,
                                   dispDeadline := s.dispDeadline + 1 }) ∨
     (s.row = 7 ∧ s.pend = none ∧ t = { s with out := s.out ++ [⟨s.row, rowPixels s.cur s.row s⟩], row := 0,
                                               dispDeadline := s.dispDeadline + 1 }) ∨
     (∃ g, s.row = 7 ∧ s.pend = some g ∧ freeGet s.free s.cur = false ∧
       t = { s with out := s.out ++ [⟨s.row, rowPixels s.cur s.row s⟩], row := 0,
                    dispDeadline := s.dispDeadline + 1, pend := none, cur := g,
                    free := freeSet s.free s.cur true, mem := s.mem.forget s.cur, fresh := s.fresh + 1 })) := by
  obtain ⟨he, ht⟩ := whenEnabled_eq_next.mp h
  refine ⟨by simpa [enabled] using he, ?_⟩
  simp only [advanceRow] at ht
  by_cases hr : s.row.val < 7
  · rw [if_pos (show (emitRow s).row.val < 7 from hr)] at ht
    exact .inl ⟨hr, by simpa [emitRow, emit] using ht.symm⟩
  · rw [if_neg (show ¬(emitRow s).row.val < 7 from hr)] at ht
    have hr7 : s.row = 7 := by have := s.row.isLt; omega
    refine .inr ?_
    cases hp : s.pend with
    | none =>
      simp only [swapAtWrap, take, emitRow_pend, hp] at ht
      exact .inl ⟨hr7, rfl, by simpa [emitRow, emit, hp] using ht.symm⟩
    | some g =>
      simp only [swapAtWrap, take, emitRow_pend, hp] at ht
      obtain ⟨u, hu, ht⟩ := andThen_eq_next.mp ht
      obtain ⟨hc, rfl⟩ := release_eq_next.mp hu
      exact .inr ⟨g, hr7, rfl, by simpa using hc, by simpa [emitRow, emit] using ht.symm⟩

theorem exec_cntInc {s : State} (hf : s.fault = .noFault) (hr : 0 < s.cntReq) :
    exec .cntInc s = .next (increment s) := by
  simp [exec, execCntInc, whenEnabled, enabled, hf, hr]

theorem exec_cntInc_inv {s t : State} (h : exec .cntInc s = .next t) :
    s.fault = .noFault ∧ 0 < s.cntReq ∧
      t = { s with cnt := (s.cnt + 1) % 2 ^ s.cfg.cw.bits, cntReq := s.cntReq - 1 } := by
  obtain ⟨he, ht⟩ := whenEnabled_eq_next.mp h
  simp only [enabled, Bool.and_eq_true, Bool.not_eq_true', faulted_eq_false, decide_eq_true_eq] at he
  exact ⟨he.1, he.2, by simpa [increment] using ht.symm⟩

theorem exec_ssBegin_inv {s t : State} (h : exec .ssBegin s = .next t) :
    s.fault = .noFault ∧ s.hold = none ∧
    ((s.cnt ≠ s.last ∧ t = { s with last := s.cnt, pal := s.pal + 1, ssDeadline := s.ssDeadline + 1 }) ∨
     (s.cnt = s.last ∧ (∀ g, freeGet s.free g = false) ∧ t = raisePoolExhausted .ss s) ∨
     (∃ g, s.cnt = s.last ∧ freeGet s.free g = true ∧
       t = { s with hold := some g, free := freeSet s.free g false })) := by
  obtain ⟨he, ht⟩ := whenEnabled_eq_next.mp h
  simp only [enabled, Bool.and_eq_true, Bool.not_eq_true', faulted_eq_false, Option.isNone_iff_eq_none] at he
  refine ⟨he.1, he.2, ?_⟩
  by_cases hc : s.cnt ≠ s.last
  · rw [if_pos (show readCnt s ≠ s.last from hc)] at ht
    exact .inl ⟨hc, by simpa [advancePalette, readCnt] using ht.symm⟩
  · rw [if_neg (show ¬readCnt s ≠ s.last from hc)] at ht
    refine .inr ?_
    rcases acquire_cases s with ⟨ha, hn⟩ | ⟨g, hg, ha⟩
    · rw [ha] at ht
      exact .inl ⟨not_not.mp hc, hn, by simpa using ht.symm⟩
    · rw [ha] at ht
      exact .inr ⟨g, not_not.mp hc, hg, by simpa using ht.symm⟩

theorem exec_ssFinish {s : State} {h : Handle} (hf : s.fault = .noFault) (hh : s.hold = some h) :
    exec .ssFinish s = andThen (install h (renderFrame h (paletteColor s) s)) fun s1 =>
      .next (advancePalette { s1 with hold := none }) := by
  simp [exec, execSsFinish, whenEnabled, enabled, hf, hh]

theorem exec_ssFinish_inv {s t : State} (h : exec .ssFinish s = .next t) :
    s.fault = .noFault ∧ ∃ g u, s.hold = some g ∧ install g (renderFrame g (paletteColor s) s) = .next u ∧
      t = { u with hold := none, pal := u.pal + 1, ssDeadline := u.ssDeadline + 1 } := by
  obtain ⟨he, ht⟩ := whenEnabled_eq_next.mp h
  simp only [enabled, Bool.and_eq_true, Bool.not_eq_true', faulted_eq_false, Option.isSome_iff_exists] at he
  obtain ⟨hf, g, hh⟩ := he
  rw [hh] at ht
  obtain ⟨u, hu, ht⟩ := andThen_eq_next.mp ht
  exact ⟨hf, g, u, hh, hu, by simpa [advancePalette] using ht.symm⟩

theorem exec_reset (s : State) : exec .reset s = .next (resetFrom s) := rfl

end Sys2Proof.Machine
end

