-- ==== Sys2Proof/Laws/PerInstr.lean ====
section
/-! SUPPORT. Statements about every operation as syntax, one lemma per constructor of Instr. -/

/-- R97, R99: an operation has a step word exactly when it is a well-formed step. -/
def Sys2Proof.Laws.Encodable.Statement (i : Sys2Proof.Instr) : Prop :=
  (Sys2Proof.encode i).isSome = (i.wellFormed && i.isStep)

namespace Sys2Proof.Laws.Encodable

theorem rxSync : Statement .rxSync := rfl

theorem rxData (d : Byte) : Statement (.rxData d) := by
  show (if d = sentinel then none else some ((0x0 : BitVec 4) ++ d)).isSome = (d != sentinel && true)
  split <;> simp_all

theorem dispTick : Statement .dispTick := rfl

theorem cntInc : Statement .cntInc := rfl

theorem ssBegin : Statement .ssBegin := rfl

theorem ssFinish : Statement .ssFinish := rfl

theorem reset : Statement .reset := rfl

theorem poolAcquire (who : Caller) : Statement (.poolAcquire who) := rfl

theorem poolRelease (h : Handle) : Statement (.poolRelease h) := rfl

theorem pendInstall (h : Handle) : Statement (.pendInstall h) := rfl

theorem pendTake : Statement .pendTake := rfl

theorem cntSignal : Statement .cntSignal := rfl

theorem cntRead : Statement .cntRead := rfl

theorem rxDone : Statement .rxDone := rfl

end Sys2Proof.Laws.Encodable
end

