-- ==== Sys2Proof/Tests/Slice0.lean ====
section
/-! SUPPORT. The model's own tests. Expected values are the spec's: 95_test_vectors.md, whose vector each docstring
names, and the encodings of 30_encoding.md. Then one witness per statement with hypotheses. -/

namespace Sys2Proof.Tests

open Sys2Proof Sys2Proof.Machine

/-! ## Small states -/

/-- Every byte of the pool space is specified; slot 0 holds frame A of 95_test_vectors.md section 2.5, byte `o` at
offset `o`. -/
@[irreducible] def allBytes : Memory := (List.range poolBytes).map fun a => (a, BitVec.ofNat 8 a)

/-- The reset registers, frame A on display. -/
def shown : State := { State.reset with mem := allBytes }

/-- The next payload byte is the last of a frame. -/
def almost : State := { shown with off := 191 }

/-- A frame is pending. -/
def pending : State := { shown with free := ⟨false, false, false⟩, asm := 2, pend := some 1, cntReq := 1 }

/-- A frame is pending and the next payload byte is the last of another. -/
def almostPending : State := { pending with off := 191 }

/-- The Screensaver holds slot 2. -/
def holding : State := { shown with free := ⟨false, false, false⟩, hold := some 2 }

/-- The Screensaver holds slot 2 and the next payload byte is the last of a frame. -/
def almostHolding : State := { holding with off := 191 }

/-- After a fault. -/
def faultedState : State := { shown with fault := .poolExhaustedRx }

/-- Outside the invariant: a cursor beyond the buffer, and the displayed slot free. -/
def broken : State := { pending with off := 192, free := ⟨true, false, false⟩, row := 7 }

/-- One field of a next state. -/
def fieldOf {α : Type} (o : Outcome) (f : State → α) : Option α :=
  match o with
  | .next s => some (f s)
  | .fault _ => none
  | .refused _ => none

/-- The reason of a refusal. -/
def refusalOf (o : Outcome) : Option Refusal :=
  match o with
  | .next _ => none
  | .fault _ => none
  | .refused r => some r

theorem fieldOf_eq_some {α : Type} {o : Outcome} {f : State → α} {x : α} (h : fieldOf o f = some x) :
    ∃ t, o = .next t ∧ f t = x := by
  cases o with
  | next s => exact ⟨s, rfl, Option.some.inj h⟩
  | fault r => cases h
  | refused r => cases h

/-! ## Well-formedness -/

theorem test_wf_refuses_sentinel_payload : (Instr.rxData 0xFF).wellFormed = false := by decide

theorem test_wf_accepts_largest_payload : (Instr.rxData 0xFE).wellFormed = true := by decide

/-! ## Decoding: words written out from rules R91, R92, R97 (vectors V-E1 to V-E18) -/

/-- V-E1, V-E2, V-E3, V-E4. -/
theorem test_decode_wire :
    decode (.w8 0b00000000) = .ok (.rxData 0x00) ∧ decode (.w8 0b01111111) = .ok (.rxData 0x7F) ∧
    decode (.w8 0b11111110) = .ok (.rxData 0xFE) ∧ decode (.w8 0b11111111) = .ok .rxSync := by decide

/-- V-E5. -/
theorem test_decode_rxSync : decode (.step12 0b000011111111) = .ok .rxSync := by decide

/-- V-E6, V-E7. -/
theorem test_decode_rxData :
    decode (.step12 0b000000000000) = .ok (.rxData 0x00) ∧ decode (.step12 0b000011111110) = .ok (.rxData 0xFE) := by
  decide

/-- V-E8. -/
theorem test_decode_dispTick : decode (.step12 0b000100000000) = .ok .dispTick := by decide

/-- V-E9. -/
theorem test_decode_cntInc : decode (.step12 0b001000000000) = .ok .cntInc := by decide

/-- V-E10. -/
theorem test_decode_ssBegin : decode (.step12 0b001100000000) = .ok .ssBegin := by decide

/-- V-E11. -/
theorem test_decode_ssFinish : decode (.step12 0b010000000000) = .ok .ssFinish := by decide

/-- V-E12. -/
theorem test_decode_reset : decode (.step12 0b111100000000) = .ok .reset := by decide

/-- V-E13, V-E14, V-E15. -/
theorem test_decode_rejects :
    decode (.step12 0x101) = .error (.nonZeroOperand 0x1 0x01) ∧ decode (.step12 0x500) = .error (.reservedKind 0x5) ∧
    decode (.step12 0xFFF) = .error (.nonZeroOperand 0xF 0xFF) := by decide

/-- R99: a primitive has no encoding. -/
theorem test_encode_primitive : encode .rxDone = none ∧ encodeWire .rxDone = none := by decide

theorem test_decodeTableWord :
    decodeTableWord 8 0x12 = some (.rxData 0x12) ∧ decodeTableWord 8 0xFF = some .rxSync ∧
    decodeTableWord 16 0x012 = some (.rxData 0x12) ∧ decodeTableWord 16 0xF00 = some .reset ∧
    decodeTableWord 16 0x101 = none ∧ decodeTableWord 16 0x1100 = none ∧ decodeTableWord 0 0 = none := by decide

/-! ## Layout (vectors V-E19 to V-E26) -/

theorem test_offset_place :
    [0, 2, 23, 24, 95, 100, 190, 191].map (fun o => (offsetRow o, offsetCol o, offsetChannelNumber o)) =
      [(0, 0, 0), (0, 0, 2), (0, 7, 2), (1, 0, 0), (3, 7, 2), (4, 1, 1), (7, 7, 1), (7, 7, 2)] := by decide

theorem test_offset_channel :
    [0, 2, 100].map (offsetChannel Config.default.rxchan) = [.blue, .red, .green] := by decide

/-! ## One step each -/

/-- V-D4: the cursor goes to 0 from the middle of a pixel. -/
theorem test_rxSync : fieldOf (exec .rxSync { shown with off := 4 }) (fun t => t.off) = some 0 := by decide +kernel

/-- V-D5. -/
theorem test_rxData :
    fieldOf (exec (.rxData 0x12) shown) (fun t => (t.mem.lookup (addr 1 0), t.off)) = some (some 0x12, 1) := by
  decide +kernel

/-- V-D9. -/
theorem test_rxData_displaces :
    fieldOf (exec (.rxData 0x34) almostPending)
        (fun t => (t.mem.lookup (addr 2 191), t.pend, t.asm)) = some (some 0x34, some 2, 1) ∧
    fieldOf (exec (.rxData 0x34) almostPending) (fun t => (t.free, t.off, t.cntReq)) =
      some (⟨false, false, false⟩, 0, 2) := by decide +kernel

/-- V-D8. -/
theorem test_rxDone :
    fieldOf (exec .rxDone almost) (fun t => (t.pend, t.asm, t.free, t.off, t.cntReq, t.cnt)) =
      some (some 1, 2, ⟨false, false, false⟩, 0, 1, 0) := by decide +kernel

/-- V-D10: the frame completes while the Screensaver holds a buffer. -/
theorem test_rxDone_faults : fieldOf (exec .rxDone almostHolding) (fun t => faultOut t) = some 1 := by decide +kernel

/-- V-O5. -/
theorem test_dispTick :
    fieldOf (exec .dispTick shown) (fun t => (t.row, t.out.map fun e => (outRow e, outPix e 0, outPix e 7))) =
      some (1, [(0, 0x020100, 0x171615)]) := by decide +kernel

/-- V-O4: the wrap takes the pending frame and releases the old one. -/
theorem test_dispTick_swaps :
    fieldOf (exec .dispTick { pending with row := 7 }) (fun t => (t.row, t.cur, t.pend, t.free)) =
      some (0, 1, none, ⟨true, false, false⟩) := by decide +kernel

/-- V-S8: the counter wraps. -/
theorem test_cntInc :
    fieldOf (exec .cntInc { shown with cnt := 0xFFFFFFFF, cntReq := 1 }) (fun t => (t.cnt, t.cntReq)) =
      some (0, 0) := by decide +kernel

/-- V-S11: with none owed the step is refused. -/
theorem test_cntInc_notEnabled : refusalOf (exec .cntInc shown) = some .notEnabled := by decide +kernel

/-- V-X1. -/
theorem test_ssBegin_changed :
    fieldOf (exec .ssBegin { shown with cnt := 5, last := 4, pal := 2 }) (fun t => (t.last, t.pal, t.hold)) =
      some (5, 0, none) := by decide +kernel

/-- V-X2. -/
theorem test_ssBegin_idle :
    fieldOf (exec .ssBegin { shown with cnt := 5, last := 5, pal := 1 }) (fun t => (t.hold, t.free, t.last, t.pal)) =
      some (some 2, ⟨false, false, false⟩, 5, 1) := by decide +kernel

/-- V-X5. -/
theorem test_ssFinish :
    fieldOf (exec .ssFinish holding) (fun t => (t.pend, t.hold, t.pal, t.cnt, t.cntReq)) =
      some (some 2, none, 1, 0, 0) := by decide +kernel

/-- V-R2: RESET is the way out of the fault. -/
theorem test_reset :
    fieldOf (exec .reset { faultedState with off := 57, cnt := 9, cntReq := 3 })
        (fun t => (t.fault, t.off, t.cnt, t.cntReq, t.free)) =
      some (.noFault, 0, 0, 0, ⟨false, false, true⟩) := by decide +kernel

/-- V-P7: the lowest free slot. -/
theorem test_poolAcquire :
    fieldOf (exec (.poolAcquire .rx) { shown with free := ⟨true, false, true⟩ }) (fun t => (t.ret, t.free)) =
      some (some (.handle 0), ⟨false, false, true⟩) := by decide +kernel

/-- V-P5. -/
theorem test_poolAcquire_exhausted :
    fieldOf (exec (.poolAcquire .ss) pending) (fun t => faultOut t) = some 2 := by decide +kernel

/-- V-P6. -/
theorem test_poolRelease :
    fieldOf (exec (.poolRelease 1) pending) (fun t => (t.free, t.mem.lookup (addr 1 0))) =
      some (⟨false, true, false⟩, none) := by decide +kernel

/-- V-P8. -/
theorem test_poolRelease_free :
    refusalOf (exec (.poolRelease 1) { pending with free := ⟨false, true, false⟩ }) = some .handleNotHeld := by
  decide +kernel

/-- V-S2: exactly one buffer is released. -/
theorem test_pendInstall :
    fieldOf (exec (.pendInstall 2) pending) (fun t => (t.pend, t.free)) = some (some 2, ⟨false, true, false⟩) := by
  decide +kernel

/-- V-S4. -/
theorem test_pendTake :
    fieldOf (exec .pendTake pending) (fun t => (t.ret, t.pend, t.free)) =
      some (some (.taken (some 1)), none, ⟨false, false, false⟩) := by decide +kernel

/-- V-S6: signals never merge. -/
theorem test_cntSignal :
    fieldOf (exec .cntSignal pending) (fun t => (t.cntReq, t.cnt)) = some (2, 0) := by decide +kernel

/-- V-S12. -/
theorem test_cntRead :
    fieldOf (exec .cntRead { shown with cnt := 5 }) (fun t => (t.ret, t.cnt)) = some (some (.count 5), 5) := by
  decide +kernel

/-! ## The step -/

/-- The word at the head of the trace is the one that runs. -/
theorem test_withFetchWord : step (State.reset.withFetchWord 16 0x100) = exec .dispTick State.reset := rfl

/-- V-D11: a byte on the wire is ignored under a fault. -/
theorem test_wire_byte_ignored_under_fault :
    fieldOf (step (faultedState.withFetchWord 8 0x00)) (fun t => (t.off, t.fault)) = some (0, .poolExhaustedRx) := by
  decide +kernel

/-- V-R3: a trace word is refused there. -/
theorem test_trace_word_refused_under_fault :
    refusalOf (step (faultedState.withFetchWord 16 0x000)) = some .notEnabled := by decide +kernel

/-- V-O7. -/
theorem test_chain_bytes (px : Vector Color 8) :
    (chainBytes ⟨0, px⟩).take 3 = [Config.gamma px[7].b, Config.gamma px[7].g, Config.gamma px[7].r] := rfl

/-! ## Witnesses: for each statement with hypotheses, inputs that meet them all -/

theorem lookup_allBytes {a : Nat} (ha : a < poolBytes) : (Memory.lookup allBytes a).isSome = true := by
  have h : ∀ l : List Nat, a ∈ l →
      (Memory.lookup (l.map fun a => (a, (BitVec.ofNat 8 a : Byte))) a).isSome = true := by
    intro l
    induction l with
    | nil => simp
    | cons b l ih =>
      intro hm
      simp only [List.map_cons, Memory.lookup]
      split
      · rfl
      · rename_i hne
        exact ih ((List.mem_cons.mp hm).resolve_left hne)
  unfold allBytes
  exact h _ (List.mem_range.mpr ha)

theorem wf_allBytes : Memory.wf allBytes := by
  unfold allBytes
  refine ⟨List.pairwise_map.mpr List.pairwise_lt_range, fun c hc => ?_⟩
  obtain ⟨a, ha, rfl⟩ := List.mem_map.mp hc
  exact List.mem_range.mp ha

/-- With every byte specified, the invariant is a matter of the registers. -/
theorem invariant_of {s : State} (hm : s.mem = allBytes)
    (hr : s.cnt < 2 ^ s.cfg.cw.bits ∧ s.last < 2 ^ s.cfg.cw.bits ∧ s.off.toNat < frameBytes ∧ Ownership s) : Invariant s := by
  have hw : ∀ (h : Handle) (n : Nat), n ≤ frameBytes → Written h n s := fun h n hn o ho => by
    rw [hm]
    exact lookup_allBytes (addr_lt h (Nat.lt_of_lt_of_le ho hn))
  exact ⟨hm ▸ wf_allBytes, hr.1, hr.2.1, fun _ => ⟨hr.2.2.1, hr.2.2.2, hw _ _ (Nat.le_refl _),
    fun h _ => hw h _ (Nat.le_refl _), hw _ _ (Nat.le_of_lt hr.2.2.1)⟩⟩

theorem invariant_shown : Invariant shown := invariant_of rfl (by decide +kernel)
theorem invariant_almost : Invariant almost := invariant_of rfl (by decide +kernel)
theorem invariant_pending : Invariant pending := invariant_of rfl (by decide +kernel)
theorem invariant_almostPending : Invariant almostPending := invariant_of rfl (by decide +kernel)
theorem invariant_holding : Invariant holding := invariant_of rfl (by decide +kernel)
theorem invariant_almostHolding : Invariant almostHolding := invariant_of rfl (by decide +kernel)

theorem witness_StepWordsDecodeAsTabled : (0x00 : Byte) ≠ 0xFF ∧ (0xFE : Byte) ≠ 0xFF := by decide

theorem witness_EveryWireByteIsSyncOrData : (0x00 : Byte) ≠ 0xFF ∧ (0xFE : Byte) ≠ 0xFF := by decide

theorem witness_StrobesSelectSteps : (0x00 : Byte) ≠ 0xFF ∧ (0xFE : Byte) ≠ 0xFF := by decide

/-- Kinds 5 and E are reserved, 4 and F are not, and only with operand 0. -/
theorem witness_NonStepsAreRefused :
    decode (.step12 0x500) = .error (.reservedKind 0x5) ∧ decode (.step12 0xEFF) = .error (.reservedKind 0xE) ∧
    decode (.step12 0x4FF) = .error (.nonZeroOperand 0x4 0xFF) ∧
    (offerFirst (.step12 0x500) shown).trace = [.step12 0x500] ∧
    Instr.cntInc.isStep = true ∧ enabled .cntInc shown = false ∧ enabled .ssFinish shown = false ∧
    enabled .ssBegin holding = false := by decide +kernel

theorem witness_DecodeEncodeAgree :
    (Instr.rxData 0xFE).wellFormed = true ∧ (Instr.rxData 0xFE).isStep = true ∧ Instr.rxDone.isStep = false ∧
    encodeWire .rxSync = some 0xFF ∧ agentOf (.rxData 0x00) = some .rx := by decide

theorem witness_EncodeDecodeAgree :
    decode (.step12 0x0FE) = .ok (.rxData 0xFE) ∧ decode (.step12 0xF00) = .ok .reset := by decide

theorem witness_StepRunsTheDecodedOperation :
    (offerFirst (.step12 0x100) shown).trace = [.step12 0x100] ∧ decode (.step12 0x100) = .ok .dispTick ∧
    shown.fault = .noFault ∧ (offerFirst (.w8 0xFF) faultedState).trace = [.w8 0xFF] ∧
    faultedState.fault ≠ .noFault ∧ shown.trace = [] := by decide +kernel

theorem witness_RxSyncResetsTheCursorOnly :
    almost.fault = .noFault ∧ shown.fault = .noFault ∧ shown.off = 0 ∧ faultedState.fault ≠ .noFault := by
  decide +kernel

theorem witness_RxDataStoresAndAdvances :
    shown.fault = .noFault ∧ (0xFE : Byte) ≠ 0xFF ∧ shown.off.toNat < 191 ∧
    ({ shown with off := 190 } : State).off.toNat < 191 := by decide +kernel

theorem witness_RxDataCompletesTheFrame :
    (Invariant almost ∧ almost.fault = .noFault ∧ almost.off.toNat = 191 ∧ almost.hold = none ∧ almost.pend = none) ∧
    (Invariant almostPending ∧ almostPending.fault = .noFault ∧ almostPending.off.toNat = 191 ∧
      almostPending.hold = none ∧ almostPending.pend = some 1) ∧ (0x34 : Byte) ≠ 0xFF :=
  ⟨⟨invariant_almost, by decide +kernel⟩, ⟨invariant_almostPending, by decide +kernel⟩, by decide⟩

theorem witness_RxDoneHandsTheFrameOver :
    (Invariant shown ∧ shown.fault = .noFault ∧ shown.hold = none ∧ shown.pend = none) ∧
    (Invariant pending ∧ pending.fault = .noFault ∧ pending.hold = none ∧ pending.pend = some 1) :=
  ⟨⟨invariant_shown, by decide +kernel⟩, ⟨invariant_pending, by decide +kernel⟩⟩

/-- One step of each kind from a cursor inside the buffer. -/
theorem witness_CursorTransitions :
    almost.off.toNat < frameBytes ∧ fieldOf (exec .rxSync almost) (fun t => t.fault) = some .noFault ∧
    fieldOf (exec (.rxData 0x01) almost) (fun t => t.fault) = some .noFault ∧
    fieldOf (exec (.rxData 0x01) shown) (fun t => t.fault) = some .noFault ∧
    fieldOf (exec .dispTick almost) (fun t => t.fault) = some .noFault := by decide +kernel

theorem witness_CompletedFrameIsTheLast192Bytes :
    Invariant shown ∧ shown.fault = .noFault ∧ shown.off = 0 ∧ shown.hold = none ∧
    (List.replicate 192 (0xFE : Byte)).length = 192 ∧ ∀ b ∈ List.replicate 192 (0xFE : Byte), b ≠ 0xFF := by
  refine ⟨invariant_shown, by decide +kernel, by decide +kernel, by decide +kernel, List.length_replicate ..,
    fun b hb => ?_⟩
  rw [List.eq_of_mem_replicate hb]
  decide

theorem witness_DispTickEmitsAndAdvances :
    (shown.fault = .noFault ∧ shown.row.val < 7) ∧ ({ shown with row := 6 } : State).row.val < 7 ∧
    (({ shown with row := 7 } : State).row = 7 ∧ shown.pend = none) ∧
    (({ pending with row := 7 } : State).row = 7 ∧ pending.fault = .noFault ∧ pending.pend = some 1 ∧
      freeGet pending.free pending.cur = false) := by decide +kernel

theorem witness_ByteHandlerCommutesWithEmission :
    Invariant almostPending ∧ almostPending.fault = .noFault ∧ agentOf (.rxData 0x34) = some .rx ∧
    fieldOf (exec (.rxData 0x34) almostPending) (fun t => t.fault) = some .noFault :=
  ⟨invariant_almostPending, by decide +kernel⟩

/-- Eight ticks, with a byte received in between. -/
def eightTicks : List Instr := [.dispTick, .rxData 0x34] ++ List.replicate 7 .dispTick

theorem witness_NoTornFrames :
    Invariant almostPending ∧ almostPending.fault = .noFault ∧ almostPending.row = 0 ∧ AgentSteps eightTicks ∧
    fieldOf (runOps eightTicks almostPending) (fun t => t.fault) = some .noFault ∧ eightTicks.count .dispTick = 8 :=
  ⟨invariant_almostPending, by decide +kernel⟩

theorem witness_RowsAreEmittedInSequence :
    AgentSteps eightTicks ∧ fieldOf (runOps eightTicks pending) (fun t => t.fault) = some .noFault := by
  decide +kernel

theorem witness_PendingFrameIsShownWithinEightTicks :
    Invariant pending ∧ pending.fault = .noFault ∧ pending.pend = some 1 := ⟨invariant_pending, by decide +kernel⟩

theorem witness_SsBeginRecordsActivity :
    ({ shown with cnt := 5, last := 4 } : State).fault = .noFault ∧ shown.hold = none ∧
    ({ shown with cnt := 5, last := 4 } : State).cnt ≠ ({ shown with cnt := 5, last := 4 } : State).last := by
  decide +kernel

theorem witness_SsBeginAcquiresWhenIdle :
    Invariant shown ∧ shown.fault = .noFault ∧ shown.hold = none ∧ shown.cnt = shown.last ∧ shown.pend = none :=
  ⟨invariant_shown, by decide +kernel⟩

/-- Both clauses: the Pending Slot empty; and, outside the invariant, occupied. -/
theorem witness_SsFinishRendersAndInstalls :
    (holding.fault = .noFault ∧ holding.hold = some 2 ∧ freeGet holding.free 2 = false ∧ holding.pend = none) ∧
    (({ holding with pend := some 1 } : State).pend = some 1 ∧ (1 : Handle) ≠ 2 ∧ freeGet holding.free 1 = false) := by
  decide +kernel

theorem witness_CntIncCommutesWithSsFinish :
    ({ holding with cntReq := 1 } : State).fault = .noFault ∧ 0 < ({ holding with cntReq := 1 } : State).cntReq ∧
    ({ holding with cntReq := 1 } : State).hold ≠ none := by decide +kernel

/-- A tick on each branch. -/
theorem witness_PaletteAdvancesOnEveryTick :
    Invariant shown ∧ shown.hold = none ∧ fieldOf (ssTick shown) (fun t => t.fault) = some .noFault ∧
    shown.cnt = shown.last ∧ Invariant { shown with cnt := 1 } ∧
    fieldOf (ssTick { shown with cnt := 1 }) (fun t => t.fault) = some .noFault :=
  ⟨invariant_shown, by decide +kernel, by decide +kernel, by decide +kernel, invariant_of rfl (by decide +kernel),
    by decide +kernel⟩

theorem witness_CntIncPerformsOneIncrement :
    pending.fault = .noFault ∧ 0 < pending.cntReq ∧ shown.fault = .noFault ∧ shown.cntReq = 0 := by decide +kernel

theorem witness_SignalAndReadOfTheCounter : shown.fault = .noFault := by decide +kernel

/-- V-S13: a one-bit counter, two increments owed. -/
def oneBit : State := { shown with cfg := { Config.default with cw := ⟨1, by decide⟩ }, cntReq := 2 }

theorem witness_CounterWrapAliases :
    oneBit.fault = .noFault ∧ oneBit.cnt < 2 ^ oneBit.cfg.cw.bits ∧ 1 * 2 ^ oneBit.cfg.cw.bits ≤ oneBit.cntReq := by
  decide +kernel

theorem witness_EveryFrameIsCountedOnce :
    AgentSteps [.rxData 0x01, .cntInc] ∧ almost.cnt < 2 ^ almost.cfg.cw.bits ∧
    fieldOf (runOps [.rxData 0x01, .cntInc] almost) (fun t => t.fault) = some .noFault := by decide +kernel

/-- Both clauses: a free slot; none. -/
theorem witness_AcquireTakesAFreeSlot :
    (shown.fault = .noFault ∧ freeGet shown.free 2 = true ∧ shown.cfg.policy = Config.default.policy) ∧
    (pending.fault = .noFault ∧ ∀ g, freeGet pending.free g = false) := by decide +kernel

theorem witness_ReleaseFreesTheSlot :
    shown.fault = .noFault ∧ freeGet shown.free 0 = false ∧ freeGet pending.free 2 = false := by decide +kernel

theorem witness_InstallReleasesTheDisplacedFrame :
    (shown.fault = .noFault ∧ freeGet shown.free 1 = false ∧ shown.pend = none) ∧
    (pending.fault = .noFault ∧ freeGet pending.free 2 = false ∧ pending.pend = some 1 ∧ (1 : Handle) ≠ 2 ∧
      freeGet pending.free 1 = false) := by decide +kernel

theorem witness_TakeEmptiesThePendingSlot : pending.fault = .noFault := by decide +kernel

/-- Each clause of the statement in a state of its own. -/
theorem witness_MisuseIsRefusedByName :
    (broken.fault = .noFault ∧ frameBytes ≤ broken.off.toNat ∧ freeGet broken.free 0 = true) ∧
    (broken.row = 7 ∧ broken.pend ≠ none ∧ freeGet broken.free broken.cur = true) ∧
    (pending.fault = .noFault ∧ pending.pend = some 1) ∧
    (({ holding with pend := some 2 } : State).pend = some 2 ∧ holding.hold = some 2) ∧
    (({ almost with pend := some 1 } : State).pend = some 1 ∧ almost.asm = 1 ∧ almost.off.toNat = 191) := by
  decide +kernel

/-- All three splits of the third slot: free, pending, held. -/
theorem witness_PoolAccounting :
    (Invariant shown ∧ shown.fault = .noFault) ∧ (Invariant pending ∧ pending.fault = .noFault) ∧
    Invariant holding ∧ holding.fault = .noFault :=
  ⟨⟨invariant_shown, by decide +kernel⟩, ⟨invariant_pending, by decide +kernel⟩, invariant_holding,
    by decide +kernel⟩

theorem witness_AcquirePolicyIsNeverExercised :
    Invariant almost ∧ (Instr.rxData 0x01).isStep = true ∧
    fieldOf (exec (.rxData 0x01) almost) (fun t => t.fault) = some .noFault := ⟨invariant_almost, by decide +kernel⟩

/-- A step that faults by each cause. -/
theorem witness_FaultExactlyWhenThePoolIsExhausted :
    (Invariant almostHolding ∧ almostHolding.fault = .noFault ∧
      fieldOf (exec (.rxData 0x01) almostHolding) (fun t => t.fault) = some .poolExhaustedRx) ∧
    (Invariant pending ∧ pending.fault = .noFault ∧
      fieldOf (exec .ssBegin pending) (fun t => t.fault) = some .poolExhaustedSs) :=
  ⟨⟨invariant_almostHolding, by decide +kernel⟩, ⟨invariant_pending, by decide +kernel⟩⟩

theorem witness_CompletionUnderScreensaverFaults :
    Invariant almostHolding ∧ almostHolding.fault = .noFault ∧ (0x34 : Byte) ≠ 0xFF ∧ almostHolding.off.toNat = 191 ∧
    almostHolding.hold ≠ none := ⟨invariant_almostHolding, by decide +kernel⟩

theorem witness_IdleTickWhilePendingFaults :
    Invariant pending ∧ pending.fault = .noFault ∧ pending.hold = none ∧ pending.cnt = pending.last ∧
    pending.pend ≠ none := ⟨invariant_pending, by decide +kernel⟩

/-- Under a fault: a step that clears it, a step that leaves it. -/
theorem witness_OnlyResetLeavesTheFault :
    faultedState.fault ≠ .noFault ∧
    fieldOf (step (faultedState.withFetchWord 16 0xF00)) (fun t => t.fault) = some .noFault ∧
    fieldOf (step (faultedState.withFetchWord 8 0x00)) (fun t => t.fault) = some .poolExhaustedRx := by decide +kernel

/-- A wrap is owed and paid, then an idle tick begins. -/
theorem witness_NoFaultUnderThePremises :
    Invariant { pending with row := 7 } ∧ ({ pending with row := 7 } : State).fault = .noFault ∧
    (({ pending with row := 7 } : State).pend ≠ none → true = true) ∧
    Premises true [.dispTick, .ssBegin] { pending with row := 7 } ∧
    fieldOf (runOps [.dispTick, .ssBegin] { pending with row := 7 }) (fun t => t.fault) = some .noFault := by
  refine ⟨invariant_of rfl (by decide +kernel), by decide +kernel, fun _ => rfl, ?_, by decide +kernel⟩
  refine ⟨rfl, fun h => absurd h.1 (by decide), fun d h => (by cases h), fun t _ => ?_⟩
  exact ⟨rfl, fun _ => by decide +kernel, fun d h => (by cases h), fun _ _ => trivial⟩

theorem witness_BootInOrderGivesTheResetState : Config.default.policy = Config.default.policy := rfl

theorem witness_EveryStepKeepsTheInvariant :
    Invariant (almostHolding.withFetchWord 16 0x034) ∧
    fieldOf (step (almostHolding.withFetchWord 16 0x034)) (fun t => t.fault) = some .poolExhaustedRx :=
  ⟨invariant_almostHolding, by decide +kernel⟩

/-- One step from reset. -/
theorem witness_ReachableStatesMeetTheInvariant :
    ∃ t, step { State.resetWith Config.default with trace := [.w8 0x12] } = .next t ∧ Reachable t ∧
      t.fault = .noFault :=
  ⟨_, rfl, ⟨Config.default, [.w8 0x12], 1, rfl⟩, rfl⟩

theorem witness_EnabledStepsAlwaysMove :
    Invariant almostHolding ∧ (Instr.rxData 0x34).isStep = true ∧ (Instr.rxData 0x34).wellFormed = true ∧
    enabled (.rxData 0x34) almostHolding = true := ⟨invariant_almostHolding, by decide +kernel⟩

/-- An agent's step that changes each of the elements the statement lists. -/
theorem witness_ElementsAreWrittenByTheirOwners :
    fieldOf (exec (.rxData 0x34) almostPending) (fun t => (t.fault, t.asm != almostPending.asm)) =
      some (.noFault, true) ∧
    fieldOf (exec .dispTick { pending with row := 7 }) (fun t => (t.fault, t.cur != pending.cur)) =
      some (.noFault, true) ∧
    fieldOf (exec .cntInc pending) (fun t => (t.fault, t.cnt != pending.cnt)) = some (.noFault, true) ∧
    fieldOf (exec .ssFinish holding) (fun t => (t.fault, t.pal != holding.pal)) = some (.noFault, true) := by
  decide +kernel

/-- For each clause, a step and an address outside the stored bytes. -/
theorem witness_BytesChangeOnlyWhereStored :
    (fieldOf (exec (.rxData 0x34) almostPending) (fun t => t.fault) = some .noFault ∧
      addr 0 191 ≠ storeAddr almostPending ∧ almostPending.pend = some 1 ∧ inSlot 1 (addr 0 191) = false) ∧
    (fieldOf (exec .ssFinish holding) (fun t => t.fault) = some .noFault ∧ holding.hold = some 2 ∧
      inSlot 2 (addr 1 191) = false) ∧
    (fieldOf (exec .dispTick { pending with row := 7 }) (fun t => t.fault) = some .noFault ∧
      inSlot pending.cur (addr 1 0) = false) ∧
    fieldOf (exec .rxSync shown) (fun t => t.fault) = some .noFault := by decide +kernel

theorem witness_DisplayedBufferIsImmutable :
    Invariant almostPending ∧
    fieldOf (exec (.rxData 0x34) almostPending) (fun t => (t.fault, t.cur == almostPending.cur)) =
      some (.noFault, true) := ⟨invariant_almostPending, by decide +kernel⟩

theorem witness_DisplayReadsOnlySpecifiedBytes : Invariant shown ∧ shown.fault = .noFault :=
  ⟨invariant_shown, by decide +kernel⟩

theorem witness_PixelLayout : 0 < 192 ∧ 191 < 192 ∧ shown.cfg.rxchan = Config.default.rxchan := by decide +kernel

theorem witness_MemReadReturnsTheBytesInOrder : 168 + 24 ≤ 192 ∧ 192 < 169 + 24 := by decide

theorem witness_MemWriteChangesOneByte : 191 < 192 ∧ 192 ≤ 192 := by decide

/-- A tick on each branch. -/
theorem witness_ScreensaverDeadlinesAreAbsolute :
    fieldOf (ssTick shown) (fun t => (t.fault, t.ssDeadline)) = some (.noFault, 1) ∧
    fieldOf (ssTick { shown with cnt := 1 }) (fun t => (t.fault, t.ssDeadline)) = some (.noFault, 1) := by
  decide +kernel

theorem witness_TraceNotationExpands :
    fieldOf (exec .ssBegin shown) (fun t => t.hold.isSome) = some true ∧
    fieldOf (exec .ssBegin { shown with cnt := 1 }) (fun t => t.hold.isSome) = some false := by decide +kernel

/-- A full-scale channel times 2 is above 255; divided by 2 it is no integer; 254 divided by 2 is one. -/
theorem witness_ColorArithmeticSaturates :
    (2 : Config.Scalar) ≠ 0 ∧ (((0xFF : Byte).toNat : NNRat) * 2) = (510 : Nat) ∧
    (((0xFE : Byte).toNat : NNRat) / 2) = (127 : Nat) := by
  rw [show (0xFF : Byte).toNat = 255 from rfl, show (0xFE : Byte).toNat = 254 from rfl]
  norm_num

theorem witness_RowDeadlinesAreAbsolute :
    fieldOf (exec .dispTick shown) (fun t => t.dispDeadline) = some 1 := by decide +kernel

end Sys2Proof.Tests
end

section
/-! SUPPORT. The step relation, case by case (R10, R42, R244), and the proof of O8. -/

namespace Sys2Proof.Machine

/-- A unit is ignored exactly when it is a wire byte and there is a fault (R42). -/
theorem ignoredUnderFault_eq_true {c : Coded} {s : State} :
    ignoredUnderFault c s = true ↔ s.fault ≠ .noFault ∧ ∃ b, c = .w8 b := by
  cases c <;> simp [ignoredUnderFault]

/-- Nothing offered: the block holds its state (R244). -/
theorem step_nil {s : State} (ht : s.trace = []) : step s = .next s := by
  simp [step, nextOffer, ht]

/-- A unit that is not ignored runs the operation it decodes to (R10). -/
theorem step_eq_exec {s : State} {c : Coded} {rest : List Coded} {i : Instr} (ht : s.trace = c :: rest)
    (hd : decode c = .ok i) (hc : s.fault = .noFault ∨ ∀ b, c ≠ .w8 b) :
    step s = exec i { s with trace := rest } := by
  have hn : ¬ignoredUnderFault c { s with trace := rest } = true := by
    rw [ignoredUnderFault_eq_true]
    rintro ⟨hf, b, hb⟩
    exact hc.elim hf (· b hb)
  rw [step_cons ht hd, if_neg hn]

/-- A wire byte under a fault is taken off the trace and does nothing else (R42). -/
theorem step_wire_of_fault {s : State} {b : Byte} {rest : List Coded} (ht : s.trace = .w8 b :: rest)
    (hf : s.fault ≠ .noFault) : step s = .next { s with trace := rest } := by
  have hd : decode (.w8 b) = .ok (decodeWire b) := rfl
  rw [step_cons ht hd]
  exact if_pos (ignoredUnderFault_eq_true.mpr ⟨hf, b, rfl⟩)

/-- Settles O8: one lemma for each way step goes on with the head of the trace. -/
theorem stepRunsTheDecodedOperation : Obligations.StepRunsTheDecodedOperation :=
  ⟨fun _ _ _ _ => step_eq_exec, fun _ _ _ => step_wire_of_fault, fun _ => step_nil⟩

end Sys2Proof.Machine
end

section
/-! SUPPORT. Ownership of the slots (10_state.md rule R36), as a relation between the free set and a list of
holders: what an acquire, a release and an install do to it; the count of rule R37 and the proof of O34. -/

namespace Sys2Proof.Machine

/-- The handles of the list are pairwise distinct and are exactly the outstanding ones (R36). -/
def Owns (f : FreeMap) (l : List Handle) : Prop := l.Nodup ∧ ∀ h : Handle, freeGet f h = false ↔ h ∈ l

theorem Owns.perm {f : FreeMap} {l l' : List Handle} (ho : Owns f l) (hp : l.Perm l') : Owns f l' :=
  ⟨hp.nodup_iff.mp ho.1, fun h => (ho.2 h).trans hp.mem_iff⟩

/-- Ownership of a state, with its holders in any order. -/
theorem owns_of_ownership {s : State} {l : List Handle} (ho : Ownership s) (hp : (holders s).Perm l) : Owns s.free l :=
  Owns.perm ho hp

theorem ownership_of_owns {s : State} {l : List Handle} (ho : Owns s.free l) (hp : (holders s).Perm l) : Ownership s :=
  ho.perm hp.symm

/-- A free slot that is acquired joins the holders (R121). -/
theorem Owns.acquire {f : FreeMap} {l : List Handle} {g : Handle} (ho : Owns f l) (hg : freeGet f g = true) :
    Owns (freeSet f g false) (g :: l) := by
  have hgl : g ∉ l := fun hm => by simp [(ho.2 g).mpr hm] at hg
  refine ⟨List.nodup_cons.mpr ⟨hgl, ho.1⟩, fun h => ?_⟩
  rw [freeGet_freeSet, List.mem_cons, ← ho.2 h]
  by_cases hh : h = g <;> simp [hh]

/-- A slot that is released leaves the holders (R122). -/
theorem Owns.release {f : FreeMap} {l : List Handle} {g : Handle} (ho : Owns f (g :: l)) :
    Owns (freeSet f g true) l := by
  obtain ⟨hgl, hl⟩ := List.nodup_cons.mp ho.1
  refine ⟨hl, fun h => ?_⟩
  rw [freeGet_freeSet]
  by_cases hh : h = g
  · simp [hh, hgl]
  · simp [hh, ho.2 h]

/-- After an install the Pending Slot has the new frame, and the displaced one has left the holders (R136, R138). -/
theorem Owns.install {h : Handle} {s u : State} {rest : List Handle} (hi : install h s = .next u)
    (ho : Owns s.free (h :: (s.pend.toList ++ rest))) : Owns u.free (h :: rest) := by
  rcases install_cases hi with ⟨-, ⟨hp, rfl⟩ | ⟨g, hp, -, -, rfl⟩⟩
  · simpa [hp] using ho
  · exact (ho.perm (by simpa [hp] using List.Perm.swap g h rest)).release

/-- The outstanding slots and the free ones are the three slots (R22). -/
theorem length_outstanding_add_freeCount (f : FreeMap) :
    ([0, 1, 2].filter fun h : Handle => !freeGet f h).length + freeCount f = 3 := by
  obtain ⟨f0, f1, f2⟩ := f
  revert f0 f1 f2
  decide

/-- Holders and free slots together are the three slots (R37). -/
theorem Owns.length_add_freeCount {f : FreeMap} {l : List Handle} (ho : Owns f l) : l.length + freeCount f = 3 := by
  have hp : l.Perm ([0, 1, 2].filter fun h : Handle => !freeGet f h) := by
    refine (List.perm_ext_iff_of_nodup ho.1 (List.Nodup.filter _ (by decide))).mpr fun h => ?_
    have hm : h ∈ ([0, 1, 2] : List Handle) := by revert h; decide
    simp only [List.mem_filter, hm, true_and, Bool.not_eq_true']
    exact (ho.2 h).symm
  rw [hp.length_eq, length_outstanding_add_freeCount]

/-- The holders are the displayed buffer, the buffer under assembly, and `p + s` more (R36, R37). -/
theorem length_holders (s : State) : (holders s).length = 2 + pendCount s + holdCount s := by
  cases hp : s.pend <;> cases hh : s.hold <;> simp [holders, pendCount, holdCount, hp, hh]

/-- Settles O34: the holders and the free slots are the three slots, and two of the holders are always there. -/
theorem poolAccounting : Obligations.PoolAccounting := by
  intro s hs hf
  obtain ⟨-, -, -, hu⟩ := hs
  obtain ⟨-, hown, -⟩ := hu hf
  have hcount := (owns_of_ownership hown (.refl _)).length_add_freeCount
  have hlen := length_holders s
  simp only [freeSlots]
  omega

/-! Orders of the holders: the one that hands its slot over stands first. -/

theorem holders_perm_asm (s : State) :
    (holders s).Perm (s.asm :: (s.pend.toList ++ s.cur :: s.hold.toList)) := by
  grind [holders]

theorem holders_perm_hold (s : State) :
    (holders s).Perm (s.hold.toList ++ (s.pend.toList ++ [s.cur, s.asm])) := by
  grind [holders]

theorem holders_perm_cur_pend {s : State} {g : Handle} (hp : s.pend = some g) :
    (holders s).Perm (s.cur :: g :: s.asm :: s.hold.toList) := by
  grind [holders]

/-- That the holders are pairwise distinct, pair by pair (R36). -/
theorem nodup_holders_iff {s : State} :
    (holders s).Nodup ↔ s.cur ≠ s.asm ∧ s.pend ≠ some s.cur ∧ s.pend ≠ some s.asm ∧
      s.hold ≠ some s.cur ∧ s.hold ≠ some s.asm ∧ ∀ h, s.hold = some h → s.pend ≠ some h := by
  cases hp : s.pend <;> cases hh : s.hold <;> simp [holders, hp, hh] <;> grind

end Sys2Proof.Machine
end

section
/-! SUPPORT. What a step leaves unchanged: the frame of each shared operation and of each step, and the proof of
O48. -/

namespace Sys2Proof.Machine

theorem faultOf_ne_noFault (who : Caller) : faultOf who ≠ .noFault := by
  cases who <;> simp [faultOf]

/-- An install writes the Pending Slot and, by the release of a displaced frame, the pool (R136). -/
theorem install_frame {h : Handle} {s u : State} (hi : install h s = .next u) :
    ∃ f m n, u = { s with pend := some h, free := f, mem := m, fresh := n } := by
  rcases install_cases hi with ⟨-, ⟨-, rfl⟩ | ⟨g, -, -, -, rfl⟩⟩
  · exact ⟨_, _, _, rfl⟩
  · exact ⟨_, _, _, rfl⟩

/-- A completion that does not fault hands the assembled buffer over for a fresh one (R158). -/
theorem completeFrame_frame {s t : State} (h : completeFrame s = .next t) (hf : t.fault = .noFault) :
    ∃ f m n g, t = { s with pend := some s.asm, asm := g, off := 0, free := f, mem := m,
                            cntReq := s.cntReq + 1, fresh := n } := by
  obtain ⟨u, hi, ⟨-, rfl⟩ | ⟨g, -, rfl⟩⟩ := completeFrame_inv h
  · exact absurd hf (faultOf_ne_noFault .rx)
  · obtain ⟨f, m, n, rfl⟩ := install_frame hi
    exact ⟨_, _, _, _, rfl⟩

theorem exec_rxData_frame {d : Byte} {s t : State} (h : exec (.rxData d) s = .next t) (hf : t.fault = .noFault) :
    ∃ m f o a p r n, t = { s with mem := m, free := f, off := o, asm := a, pend := p, cntReq := r, fresh := n } := by
  obtain ⟨-, -, ⟨-, rfl⟩ | ⟨-, hc⟩⟩ := exec_rxData_inv h
  · exact ⟨_, _, _, _, _, _, _, rfl⟩
  · obtain ⟨f, m, n, g, rfl⟩ := completeFrame_frame hc hf
    exact ⟨_, _, _, _, _, _, _, rfl⟩

theorem exec_dispTick_frame {s t : State} (h : exec .dispTick s = .next t) :
    ∃ m f p c r l d n, t = { s with mem := m, free := f, pend := p, cur := c, row := r, out := l,
                                    dispDeadline := d, fresh := n } := by
  obtain ⟨-, ⟨-, rfl⟩ | ⟨-, -, rfl⟩ | ⟨g, -, -, -, rfl⟩⟩ := exec_dispTick_inv h
  · exact ⟨_, _, _, _, _, _, _, _, rfl⟩
  · exact ⟨_, _, _, _, _, _, _, _, rfl⟩
  · exact ⟨_, _, _, _, _, _, _, _, rfl⟩

theorem exec_ssBegin_frame {s t : State} (h : exec .ssBegin s = .next t) (hf : t.fault = .noFault) :
    ∃ f l p o d, t = { s with free := f, last := l, pal := p, hold := o, ssDeadline := d } := by
  obtain ⟨-, -, ⟨-, rfl⟩ | ⟨-, -, rfl⟩ | ⟨g, -, -, rfl⟩⟩ := exec_ssBegin_inv h
  · exact ⟨_, _, _, _, _, rfl⟩
  · exact absurd hf (faultOf_ne_noFault .ss)
  · exact ⟨_, _, _, _, _, rfl⟩

theorem exec_ssFinish_frame {s t : State} (h : exec .ssFinish s = .next t) :
    ∃ m f p l o d n, t = { s with mem := m, free := f, pend := p, pal := l, hold := o, ssDeadline := d,
                                  fresh := n } := by
  obtain ⟨-, g, u, -, hi, rfl⟩ := exec_ssFinish_inv h
  obtain ⟨f, m, n, rfl⟩ := install_frame hi
  exact ⟨_, _, _, _, _, _, _, rfl⟩

/-- Settles O48: each step's frame names the elements it can write, and those are its agent's own. -/
theorem elementsAreWrittenByTheirOwners : Obligations.ElementsAreWrittenByTheirOwners := by
  intro i s t hstep hreset h hf
  cases i with
  | rxSync =>
    obtain ⟨-, rfl⟩ := exec_rxSync_inv h
    simp [agentOf]
  | rxData d =>
    obtain ⟨m, f, o, a, p, r, n, rfl⟩ := exec_rxData_frame h hf
    simp [agentOf]
  | dispTick =>
    obtain ⟨m, f, p, c, r, l, d, n, rfl⟩ := exec_dispTick_frame h
    simp [agentOf]
  | cntInc =>
    obtain ⟨-, -, rfl⟩ := exec_cntInc_inv h
    simp [agentOf]
  | ssBegin =>
    obtain ⟨f, l, p, o, d, rfl⟩ := exec_ssBegin_frame h hf
    simp [agentOf]
  | ssFinish =>
    obtain ⟨m, f, p, l, o, d, n, rfl⟩ := exec_ssFinish_frame h
    simp [agentOf]
  | reset => exact absurd rfl hreset
  | _ => cases hstep

end Sys2Proof.Machine
end

section
/-! SUPPORT. The bytes of the pool space across the shared operations: which addresses keep their byte, which slots
stay written (40_pool.md rule R123); the proof of O50. -/

namespace Sys2Proof.Machine

theorem inSlot_addr_of_ne {h g : Handle} {o : Nat} (ho : o < frameBytes) (hne : h ≠ g) :
    inSlot g (addr h o) = false := by
  simp [inSlot_addr ho, hne]

/-- A slot whose bytes are as before is written as far as before. -/
theorem written_of_lookup_eq {h : Handle} {n : Nat} {s t : State} (hw : Written h n s)
    (he : ∀ o, o < n → t.mem.lookup (addr h o) = s.mem.lookup (addr h o)) : Written h n t := fun o ho => by
  rw [he o ho]
  exact hw o ho

/-- A write makes no byte unspecified (R65). -/
theorem written_write {h : Handle} {n : Nat} {s : State} (hw : Written h n s) (a : Nat) (v : Byte) :
    Written h n { s with mem := s.mem.write a v } := fun o ho => by
  rw [lookup_write]
  split
  · rfl
  · exact hw o ho

/-- The next byte of a slot written in rising order (R157, R159). -/
theorem written_write_succ {h : Handle} {n : Nat} {s : State} (hw : Written h n s) (v : Byte) :
    Written h (n + 1) { s with mem := s.mem.write (addr h n) v } := fun o ho => by
  rcases Nat.lt_succ_iff_lt_or_eq.mp ho with ho | rfl
  · exact written_write hw _ _ o ho
  · simp

/-- A release leaves the other slots written (R122, R123). -/
theorem written_forget {h g : Handle} {n : Nat} {s : State} (hw : Written h n s) (hn : n ≤ frameBytes)
    (hne : h ≠ g) :
    Written h n { s with mem := s.mem.forget g } :=
  written_of_lookup_eq hw fun o ho => by
    rw [lookup_forget, inSlot_addr_of_ne (Nat.lt_of_lt_of_le ho hn) hne]
    rfl

/-- An install changes no byte outside the slot of the frame it displaces (R136). -/
theorem lookup_install {h : Handle} {s u : State} (hi : install h s = .next u) {a : Nat}
    (ha : ∀ g, s.pend = some g → inSlot g a = false) : u.mem.lookup a = s.mem.lookup a := by
  rcases install_cases hi with ⟨-, ⟨-, rfl⟩ | ⟨g, hp, -, -, rfl⟩⟩
  · rfl
  · simp [ha g hp]

theorem lookup_install_addr {h g : Handle} {s u : State} (hi : install h s = .next u) (hg : s.pend ≠ some g) {o : Nat}
    (ho : o < frameBytes) : u.mem.lookup (addr g o) = s.mem.lookup (addr g o) :=
  lookup_install hi fun _ hp => inSlot_addr_of_ne ho fun e => hg (e ▸ hp)

theorem written_install {h g : Handle} {n : Nat} {s u : State} (hi : install h s = .next u) (hg : s.pend ≠ some g)
    (hn : n ≤ frameBytes) (hw : Written g n s) : Written g n u :=
  written_of_lookup_eq hw fun _ ho => lookup_install_addr hi hg (Nat.lt_of_lt_of_le ho hn)

theorem wf_install {h : Handle} {s u : State} (hi : install h s = .next u) (hm : Memory.wf s.mem) :
    Memory.wf u.mem := by
  rcases install_cases hi with ⟨-, ⟨-, rfl⟩ | ⟨g, -, -, -, rfl⟩⟩
  · exact hm
  · exact wf_forget g hm

/-- A rendered slot is fully written (R197, R198). -/
theorem written_renderFrame (h : Handle) (base : Color) (s : State) : Written h frameBytes (renderFrame h base s) :=
  fun _ ho => isSome_lookup_writeFrameBytes _ _ _ _ ho

/-- Rendering leaves the other slots alone (R198). -/
theorem lookup_renderFrame_addr {h g : Handle} (hne : g ≠ h) (base : Color) (s : State) {o : Nat}
    (ho : o < frameBytes) :
    (renderFrame h base s).mem.lookup (addr g o) = s.mem.lookup (addr g o) :=
  lookup_writeFrameBytes_other _ _ _ _ (inSlot_addr_of_ne ho hne)

theorem written_renderFrame_other {h g : Handle} {n : Nat} {s : State} (hne : g ≠ h) (base : Color)
    (hn : n ≤ frameBytes) (hw : Written g n s) : Written g n (renderFrame h base s) :=
  written_of_lookup_eq hw fun _ ho => lookup_renderFrame_addr hne base s (Nat.lt_of_lt_of_le ho hn)

/-- The store of a payload byte leaves every slot but `dec.asm` alone (R61, R157). -/
theorem lookup_write_storeAddr {s : State} {g : Handle} {o : Nat} (hoff : s.off.toNat < frameBytes) (hg : g ≠ s.asm)
    (ho : o < frameBytes) (d : Byte) :
    Memory.lookup (s.mem.write (storeAddr s) d) (addr g o) = s.mem.lookup (addr g o) := by
  have hne : addr g o ≠ storeAddr s := fun e => hg ((addr_eq_iff ho hoff).mp e).1
  simp [hne]

/-- A completion that does not fault changes no byte outside the slot of the frame it displaces (R158). -/
theorem lookup_completeFrame_addr {s t : State} (h : completeFrame s = .next t) (hf : t.fault = .noFault) {g : Handle}
    (hg : s.pend ≠ some g) {o : Nat} (ho : o < frameBytes) : t.mem.lookup (addr g o) = s.mem.lookup (addr g o) := by
  obtain ⟨u, hi, ⟨-, rfl⟩ | ⟨_, -, rfl⟩⟩ := completeFrame_inv h
  · exact absurd hf (faultOf_ne_noFault .rx)
  · exact lookup_install_addr hi hg ho

/-- Settles O50: the only slots a step writes are the buffer under assembly, the held one and a displaced frame, and by
ownership none of them is on display. -/
theorem displayedBufferIsImmutable : Obligations.DisplayedBufferIsImmutable := by
  intro i s t hs hstep hreset h hf hcur o ho
  obtain ⟨-, -, -, hu⟩ := hs
  cases i with
  | rxSync =>
    obtain ⟨-, rfl⟩ := exec_rxSync_inv h
    rfl
  | rxData d =>
    obtain ⟨hsf, -, hcases⟩ := exec_rxData_inv h
    obtain ⟨hoff, ⟨hnodup, -⟩, -⟩ := hu hsf
    obtain ⟨hasm, hpend, -⟩ := nodup_holders_iff.mp hnodup
    have hstore := lookup_write_storeAddr hoff hasm ho d
    rcases hcases with ⟨-, rfl⟩ | ⟨-, hc⟩
    · exact hstore
    · exact (lookup_completeFrame_addr hc hf hpend ho).trans hstore
  | dispTick =>
    obtain ⟨hsf, ⟨-, rfl⟩ | ⟨-, -, rfl⟩ | ⟨g, -, hp, -, rfl⟩⟩ := exec_dispTick_inv h
    · rfl
    · rfl
    · obtain ⟨-, ⟨hnodup, -⟩, -⟩ := hu hsf
      obtain ⟨-, hpend, -⟩ := nodup_holders_iff.mp hnodup
      exact absurd (hcur ▸ hp) hpend
  | cntInc =>
    obtain ⟨-, -, rfl⟩ := exec_cntInc_inv h
    rfl
  | ssBegin =>
    obtain ⟨f, l, p, r, d, rfl⟩ := exec_ssBegin_frame h hf
    rfl
  | ssFinish =>
    obtain ⟨hsf, g, u, hg, hi, rfl⟩ := exec_ssFinish_inv h
    obtain ⟨-, ⟨hnodup, -⟩, -⟩ := hu hsf
    obtain ⟨-, hpend, -, hhold, -⟩ := nodup_holders_iff.mp hnodup
    have hne : s.cur ≠ g := fun e => hhold (e ▸ hg)
    exact (lookup_install_addr hi hpend ho).trans (lookup_renderFrame_addr hne _ s ho)
  | reset => exact absurd rfl hreset
  | _ => cases hstep

end Sys2Proof.Machine
end

section
/-! SUPPORT. Every step keeps the invariant (10_state.md rules R36, R37, 40_pool.md rule R123, 42_decoder.md rule R159):
one lemma per step, then the step relation and the runs; the proofs of O45 and O46. -/

namespace Sys2Proof.Machine

/-! ## The states that RESET and the fault give -/

/-- Slots 0 and 1 are outstanding, slot 2 is free (R261). -/
theorem owns_reset : Owns ⟨false, false, true⟩ [0, 1] := ⟨by decide, by decide⟩

/-- The reset state meets the invariant, for any parameters (R261, R263). -/
theorem invariant_resetWith (cfg : Config) : Invariant (State.resetWith cfg) := by
  refine ⟨wf_writeFrameBytes _ _ _ wf_nil, Nat.two_pow_pos _, Nat.two_pow_pos _, fun _ => ⟨?_, ?_, ?_, ?_, ?_⟩⟩
  · simp [frameBytes]
  · exact ownership_of_owns owns_reset (.refl _)
  · exact fun o ho => isSome_lookup_writeFrameBytes _ _ _ _ ho
  · simp
  · intro o ho
    simp at ho

theorem invariant_resetFrom (s : State) : Invariant (resetFrom s) := invariant_resetWith s.cfg

/-- Under a fault the invariant asks only for the canonical memory and the counters' width (R236). -/
theorem invariant_raisePoolExhausted (who : Caller) (s : State) : Invariant (raisePoolExhausted who s) :=
  ⟨wf_nil, Nat.mod_lt _ (Nat.two_pow_pos _), Nat.mod_lt _ (Nat.two_pow_pos _),
    fun hf => absurd hf (faultOf_ne_noFault who)⟩

/-! ## One lemma per step -/

theorem invariant_rxSync {s t : State} (hs : Invariant s) (h : exec .rxSync s = .next t) : Invariant t := by
  obtain ⟨hf, rfl⟩ := exec_rxSync_inv h
  obtain ⟨hm, hc, hl, hu⟩ := hs
  obtain ⟨-, hown, hcur, hpend, -⟩ := hu hf
  refine ⟨hm, hc, hl, fun _ => ⟨by simp [frameBytes], hown, hcur, hpend, fun o ho => ?_⟩⟩
  simp at ho

/-- The hand-over (R158) keeps the invariant when the assembled buffer is fully written. -/
theorem invariant_completeFrame {s t : State} (hs : Invariant s) (hf : s.fault = .noFault)
    (hfull : Written s.asm frameBytes s) (h : completeFrame s = .next t) : Invariant t := by
  obtain ⟨hm, hc, hl, hu⟩ := hs
  obtain ⟨-, hown, hcur, -, -⟩ := hu hf
  obtain ⟨-, hpcur, hpasm, -⟩ := nodup_holders_iff.mp hown.1
  obtain ⟨u, hi, ⟨-, rfl⟩ | ⟨g, hg, rfl⟩⟩ := completeFrame_inv h
  · exact invariant_raisePoolExhausted _ _
  have hbefore : Owns s.free (s.asm :: (s.pend.toList ++ s.cur :: s.hold.toList)) :=
    owns_of_ownership hown (holders_perm_asm s)
  have hafter := (Owns.install hi hbefore).acquire hg
  have hcur' := written_install hi hpcur (Nat.le_refl _) hcur
  have hasm' := written_install hi hpasm (Nat.le_refl _) hfull
  have hm' := wf_install hi hm
  obtain ⟨f, m, n, rfl⟩ := install_frame hi
  refine ⟨hm', hc, hl, fun _ => ⟨by simp [frameBytes], ?_, hcur', ?_, ?_⟩⟩
  · exact ownership_of_owns hafter (holders_perm_asm _)
  · rintro p hp
    obtain rfl := Option.some.inj hp
    exact hasm'
  · intro o ho
    simp at ho

theorem invariant_rxData {d : Byte} {s t : State} (hs : Invariant s) (h : exec (.rxData d) s = .next t) :
    Invariant t := by
  obtain ⟨hf, -, hcases⟩ := exec_rxData_inv h
  obtain ⟨hm, hc, hl, hu⟩ := hs
  obtain ⟨hoff, hown, hcur, hpend, hasm⟩ := hu hf
  have hm' := wf_write d hm (addr_lt s.asm hoff)
  have hcur' := written_write hcur (storeAddr s) d
  have hpend' := fun p hp => written_write (hpend p hp) (storeAddr s) d
  have hasm' := written_write_succ hasm d
  rcases hcases with ⟨hlt, rfl⟩ | ⟨hlast, hc'⟩
  · have hnext : (s.off + 1).toNat = s.off.toNat + 1 := by bv_omega
    refine ⟨hm', hc, hl, fun _ => ⟨?_, hown, hcur', hpend', ?_⟩⟩
    · simp only [hnext, frameBytes]
      omega
    · simp only [hnext]
      exact hasm'
  · refine invariant_completeFrame (s := { s with mem := s.mem.write (storeAddr s) d })
      ⟨hm', hc, hl, fun _ => ⟨hoff, hown, hcur', hpend', ?_⟩⟩ hf ?_ hc'
    · exact written_write hasm _ d
    · exact fun o ho => hasm' o (by rw [hlast]; exact ho)

theorem invariant_dispTick {s t : State} (hs : Invariant s) (h : exec .dispTick s = .next t) : Invariant t := by
  obtain ⟨hf, hcases⟩ := exec_dispTick_inv h
  obtain ⟨hm, hc, hl, hu⟩ := hs
  obtain ⟨-, rfl⟩ | ⟨-, -, rfl⟩ | ⟨g, -, hp, -, rfl⟩ := hcases
  · exact ⟨hm, hc, hl, hu⟩
  · exact ⟨hm, hc, hl, hu⟩
  · obtain ⟨hoff, hown, -, hpend, hasm⟩ := hu hf
    obtain ⟨hca, hpc, -⟩ := nodup_holders_iff.mp hown.1
    refine ⟨wf_forget _ hm, hc, hl, fun _ => ⟨hoff, ?_, ?_, ?_, ?_⟩⟩
    · have hbefore := owns_of_ownership hown (holders_perm_cur_pend hp)
      exact ownership_of_owns hbefore.release (.refl _)
    · exact written_forget (hpend g hp) (Nat.le_refl _) fun e => hpc (e ▸ hp)
    · simp
    · exact written_forget hasm (Nat.le_of_lt hoff) hca.symm

theorem invariant_cntInc {s t : State} (hs : Invariant s) (h : exec .cntInc s = .next t) : Invariant t := by
  obtain ⟨-, -, rfl⟩ := exec_cntInc_inv h
  obtain ⟨hm, -, hl, hu⟩ := hs
  exact ⟨hm, Nat.mod_lt _ (Nat.two_pow_pos _), hl, hu⟩

theorem invariant_ssBegin {s t : State} (hs : Invariant s) (h : exec .ssBegin s = .next t) : Invariant t := by
  obtain ⟨hf, hhold, hcases⟩ := exec_ssBegin_inv h
  obtain ⟨hm, hc, hl, hu⟩ := hs
  obtain ⟨-, rfl⟩ | ⟨-, -, rfl⟩ | ⟨g, -, hg, rfl⟩ := hcases
  · exact ⟨hm, hc, hc, hu⟩
  · exact invariant_raisePoolExhausted _ _
  · obtain ⟨hoff, hown, hcontents⟩ := hu hf
    refine ⟨hm, hc, hl, fun _ => ⟨hoff, ?_, hcontents⟩⟩
    have hbefore : Owns s.free (s.pend.toList ++ [s.cur, s.asm]) :=
      owns_of_ownership hown (by simpa [hhold] using holders_perm_hold s)
    exact ownership_of_owns (hbefore.acquire hg) (holders_perm_hold _)

theorem invariant_ssFinish {s t : State} (hs : Invariant s) (h : exec .ssFinish s = .next t) : Invariant t := by
  obtain ⟨hf, g, u, hg, hi, rfl⟩ := exec_ssFinish_inv h
  obtain ⟨hm, hc, hl, hu⟩ := hs
  obtain ⟨hoff, hown, hcur, -, hasm⟩ := hu hf
  obtain ⟨-, hpc, hpa, hhc, hha, hhp⟩ := nodup_holders_iff.mp hown.1
  have hcg : s.cur ≠ g := fun e => hhc (e ▸ hg)
  have hag : s.asm ≠ g := fun e => hha (e ▸ hg)
  have hbefore : Owns s.free (g :: (s.pend.toList ++ [s.cur, s.asm])) :=
    owns_of_ownership hown (by simpa [hg] using holders_perm_hold s)
  have hafter := Owns.install hi hbefore
  have hg' := written_install hi (hhp g hg) (Nat.le_refl _) (written_renderFrame g _ s)
  have hcur' := written_install hi hpc (Nat.le_refl _) (written_renderFrame_other hcg _ (Nat.le_refl _) hcur)
  have hasm' := written_install hi hpa (Nat.le_of_lt hoff) (written_renderFrame_other hag _ (Nat.le_of_lt hoff) hasm)
  have hm' := wf_install hi (wf_writeFrameBytes _ _ _ hm)
  obtain ⟨f, m, n, rfl⟩ := install_frame hi
  refine ⟨hm', hc, hl, fun _ => ⟨hoff, ?_, hcur', ?_, hasm'⟩⟩
  · exact ownership_of_owns hafter (holders_perm_hold _)
  · rintro p hp
    obtain rfl := Option.some.inj hp
    exact hg'

/-- Every step of the block keeps the invariant; a primitive on its own need not (R36). -/
theorem invariant_exec {i : Instr} {s t : State} (hi : i.isStep = true) (hs : Invariant s)
    (h : exec i s = .next t) : Invariant t := by
  cases i with
  | rxSync => exact invariant_rxSync hs h
  | rxData d => exact invariant_rxData hs h
  | dispTick => exact invariant_dispTick hs h
  | cntInc => exact invariant_cntInc hs h
  | ssBegin => exact invariant_ssBegin hs h
  | ssFinish => exact invariant_ssFinish hs h
  | reset =>
    obtain rfl := Host.Outcome.next.inj ((exec_reset s).symm.trans h)
    exact invariant_resetFrom s
  | _ => cases hi

/-! ## The machine's steps and runs -/

theorem isStep_decodeWire (b : Byte) : (decodeWire b).isStep = true := by
  unfold decodeWire
  split <;> rfl

/-- Only steps are encoded units (R8, R99). -/
theorem isStep_of_decode {c : Coded} {i : Instr} (h : decode c = .ok i) : i.isStep = true := by
  cases c with
  | w8 b =>
    obtain rfl := Except.ok.inj h
    exact isStep_decodeWire b
  | step12 w =>
    -- kind 0 is a wire byte; every other entry of the table is a constant step or an error
    simp only [decode, decodeStep] at h
    grind [isStep_decodeWire, Instr.isStep]
  | other n bits => cases h

/-- What a step of the machine is: it holds, it drops the head of the trace, or it runs a step of the block (R10, R42,
R244). -/
theorem step_cases {s t : State} (h : step s = .next t) :
    t = s ∨ ∃ rest, t = { s with trace := rest } ∨
      ∃ i : Instr, i.isStep = true ∧ exec i { s with trace := rest } = .next t := by
  cases ht : s.trace with
  | nil =>
    rw [step_nil ht] at h
    exact .inl (Host.Outcome.next.inj h).symm
  | cons c rest =>
    cases hd : decode c with
    | error e => simp [step, nextOffer, ht, hd] at h
    | ok i =>
      rw [step_cons ht hd] at h
      split at h
      · exact .inr ⟨rest, .inl (Host.Outcome.next.inj h).symm⟩
      · exact .inr ⟨rest, .inr ⟨i, isStep_of_decode hd, h⟩⟩

/-- Settles O45: the invariant does not read the trace, and every step of the block keeps it. -/
theorem everyStepKeepsTheInvariant : Obligations.EveryStepKeepsTheInvariant := by
  intro s t hs h
  obtain rfl | ⟨rest, rfl | ⟨i, hi, hexec⟩⟩ := step_cases h
  · exact hs
  · exact hs
  · exact invariant_exec hi (s := { s with trace := rest }) hs hexec

/-- What every step keeps holds after every run. -/
theorem run_keeps {M : Host.Core} (P : M.State → Prop) (keep : ∀ s t, P s → M.step s = .next t → P t) (n : Nat)
    {s t : M.State} (hs : P s) (h : M.run n s = .next t) : P t := by
  induction n generalizing s with
  | zero =>
    obtain rfl := Host.Outcome.next.inj h
    exact hs
  | succ n ih =>
    rw [Host.Core.run] at h
    split at h
    · rename_i s' hstep
      exact ih (keep s s' hs hstep) h
    · cases h
    · cases h

/-- Settles O46: the reset state meets the invariant and every step keeps it. -/
theorem reachableStatesMeetTheInvariant : Obligations.ReachableStatesMeetTheInvariant := by
  rintro s ⟨cfg, trace, n, hrun⟩
  have hs : Invariant s :=
    run_keeps (M := ⟨State, Fault, Refusal, step, State.reset⟩) Invariant everyStepKeepsTheInvariant n
      (s := { State.resetWith cfg with trace := trace }) (invariant_resetWith cfg) hrun
  have ⟨_, _, _, hu⟩ := hs
  refine ⟨hs, fun hf => ?_⟩
  obtain ⟨hoff, ⟨hnodup, -⟩, -⟩ := hu hf
  exact ⟨hoff, hnodup⟩

end Sys2Proof.Machine
end

section
/-! SUPPORT. The ports (10_state.md rules R42 to R45): the proofs of O3 and O55. -/

namespace Sys2Proof.Machine

/-- Settles O3: a byte decodes as on the wire, each other strobe as its step word. -/
theorem strobesSelectSteps : Obligations.StrobesSelectSteps := by
  refine ⟨by decide, fun b hb => ?_, by decide, by decide, by decide⟩
  exact congrArg Except.ok (if_neg hb)

theorem toNat_outRow (e : OutEvent) : (outRow e).toNat = e.row.val := by
  simp only [outRow, BitVec.toNat_ofNat]
  exact Nat.mod_eq_of_lt e.row.isLt

theorem extractLsb'_append_high {v w : Nat} (x : BitVec v) (y : BitVec w) : (x ++ y).extractLsb' w v = x := by
  rw [BitVec.extractLsb'_append_eq_of_le (Nat.le_refl w), Nat.sub_self, BitVec.extractLsb'_eq_self]

theorem extractLsb'_append_low {v w : Nat} (x : BitVec v) (y : BitVec w) : (x ++ y).extractLsb' 0 w = y := by
  rw [BitVec.extractLsb'_append_eq_of_add_le (by omega), BitVec.extractLsb'_eq_self]

/-- Bits 23:16, 15:8 and 7:0 of a pixel's port are its channels (R44). -/
theorem extractLsb'_pixelBits (c : Color) :
    (pixelBits c).extractLsb' 16 8 = c.r ∧ (pixelBits c).extractLsb' 8 8 = c.g ∧
      (pixelBits c).extractLsb' 0 8 = c.b := by
  refine ⟨?_, ?_, ?_⟩
  · exact (BitVec.extractLsb'_append_eq_of_le (by decide)).trans (extractLsb'_append_high c.r c.g)
  · exact (BitVec.extractLsb'_append_eq_of_le (by decide)).trans (extractLsb'_append_low c.r c.g)
  · exact extractLsb'_append_low (c.r ++ c.g) c.b

/-- Settles O55: the row fits its three bits, and each channel is one byte of the concatenation. -/
theorem outputPortBits : Obligations.OutputPortBits :=
  fun e c => ⟨toNat_outRow e, extractLsb'_pixelBits e.px[c]⟩

end Sys2Proof.Machine
end

section
/-! SUPPORT. Memory (20_memory.md): the layout of a frame, MemRead, MemWrite, and the bytes that each step of an agent
can change; the proofs of O49, O52, O53 and O54. -/

namespace Sys2Proof.Machine

/-! ## Which bytes a step changes -/

/-- A completion that does not fault changes only bytes of the slot of the frame it displaces (R123, R158). -/
theorem lookup_completeFrame {s t : State} (h : completeFrame s = .next t) (hf : t.fault = .noFault) {a : Nat}
    (ha : ∀ g, s.pend = some g → inSlot g a = false) : t.mem.lookup a = s.mem.lookup a := by
  obtain ⟨u, hi, ⟨-, rfl⟩ | ⟨_, -, rfl⟩⟩ := completeFrame_inv h
  · exact absurd hf (faultOf_ne_noFault .rx)
  · exact lookup_install hi ha

/-- RX.DATA changes the byte it stores and, when it completes a frame, those of the displaced one (R61, R157). -/
theorem lookup_exec_rxData {d : Byte} {s t : State} (h : exec (.rxData d) s = .next t) (hf : t.fault = .noFault)
    {a : Nat} (ha : a ≠ storeAddr s) (hp : s.off.toNat = 191 → ∀ g, s.pend = some g → inSlot g a = false) :
    t.mem.lookup a = s.mem.lookup a := by
  have hstore : Memory.lookup (s.mem.write (storeAddr s) d) a = s.mem.lookup a := by simp [ha]
  obtain ⟨-, -, ⟨-, rfl⟩ | ⟨hlast, hc⟩⟩ := exec_rxData_inv h
  · exact hstore
  · exact (lookup_completeFrame hc hf (hp hlast)).trans hstore

/-- SS.FINISH changes only bytes of the buffer it renders and of the frame it displaces (R197, R198). -/
theorem lookup_exec_ssFinish {s t : State} (h : exec .ssFinish s = .next t) {a : Nat}
    (hh : ∀ g, s.hold = some g → inSlot g a = false) (hp : ∀ g, s.pend = some g → inSlot g a = false) :
    t.mem.lookup a = s.mem.lookup a := by
  obtain ⟨-, g, u, hg, hi, rfl⟩ := exec_ssFinish_inv h
  have hrender : (renderFrame g (paletteColor s) s).mem.lookup a = s.mem.lookup a :=
    lookup_writeFrameBytes_other _ _ _ _ (hh g hg)
  exact (lookup_install hi hp).trans hrender

/-- DISP.TICK changes only bytes of the buffer that a swap takes off the display (R123, R177). -/
theorem lookup_exec_dispTick {s t : State} (h : exec .dispTick s = .next t) {a : Nat}
    (hc : s.row = 7 → s.pend ≠ none → inSlot s.cur a = false) : t.mem.lookup a = s.mem.lookup a := by
  obtain ⟨-, ⟨-, rfl⟩ | ⟨-, -, rfl⟩ | ⟨g, hrow, hp, -, rfl⟩⟩ := exec_dispTick_inv h
  · rfl
  · rfl
  · have ha : inSlot s.cur a = false := hc hrow (by simp [hp])
    simp [ha]

theorem mem_exec_rxSync {s t : State} (h : exec .rxSync s = .next t) : t.mem = s.mem := by
  obtain ⟨-, rfl⟩ := exec_rxSync_inv h
  rfl

theorem mem_exec_cntInc {s t : State} (h : exec .cntInc s = .next t) : t.mem = s.mem := by
  obtain ⟨-, -, rfl⟩ := exec_cntInc_inv h
  rfl

/-- An acquire leaves the bytes of the slot alone (R123). -/
theorem mem_exec_ssBegin {s t : State} (h : exec .ssBegin s = .next t) (hf : t.fault = .noFault) : t.mem = s.mem := by
  obtain ⟨f, l, p, o, d, rfl⟩ := exec_ssBegin_frame h hf
  rfl

/-- Settles O49: one lemma for each step that stores or releases, and the other three keep the memory. -/
theorem bytesChangeOnlyWhereStored : Obligations.BytesChangeOnlyWhereStored := by
  intro i s t a _ _ h hf
  refine ⟨?_, ?_, ?_, ?_⟩
  · rintro ⟨d, rfl⟩ ha hp
    exact lookup_exec_rxData h hf ha hp
  · rintro rfl hh hp
    exact lookup_exec_ssFinish h hh hp
  · rintro rfl hc
    exact lookup_exec_dispTick h hc
  · rintro (rfl | rfl | rfl)
    · exact mem_exec_rxSync h
    · exact mem_exec_cntInc h
    · exact mem_exec_ssBegin h hf

/-! ## The layout of a frame -/

/-- Each channel of a colour is the byte of its channel number (R63). -/
theorem colorChannel_colorOfBytes (order : ChannelOrder) (bytes : Fin 3 → Byte) (ch : Channel) :
    colorChannel (colorOfBytes order bytes) ch = bytes (channelNumber order ch) := by
  cases ch <;> rfl

/-- Settles O52: an offset is the one of its row, column and channel number, and RXCHAN is a bijection. -/
theorem pixelLayout : Obligations.PixelLayout := by
  refine ⟨fun o ho => ?_, fun h r c k s => ?_, fun h r c s hs => ?_⟩
  · obtain ⟨r, c, k, rfl⟩ := exists_pixelOffset ho
    rw [offsetRow_pixelOffset, offsetCol_pixelOffset, offsetChannelNumber_pixelOffset]
    exact ⟨rfl, r.isLt, c.isLt, k.isLt⟩
  · rw [pixel, colorChannel_colorOfBytes, channelNumber_rxchan]
    rfl
  · rw [pixel, hs]
    rfl

/-! ## MemRead -/

/-- Inside the slot MemRead answers the bytes in rising order (R64). -/
theorem exists_memRead_of_le {h : Handle} {o n : Nat} {s : State} (hn : o + n ≤ frameBytes) :
    ∃ l, memRead h o n s = some l ∧ l.length = n ∧ ∀ i, i < n → l[i]? = some (readByte h (o + i) s) :=
  ⟨_, if_pos hn, by simp, fun i hi => by simp [hi]⟩

/-- Outside the slot MemRead has no answer (R66, log 11). -/
theorem memRead_eq_none_of_gt {h : Handle} {o n : Nat} {s : State} (hn : frameBytes < o + n) :
    memRead h o n s = none := if_neg (Nat.not_le.mpr hn)

/-- The pixels of a row are in column order (R177). -/
theorem getElem_rowPixels (h : Handle) (r c : Fin 8) (s : State) : (rowPixels h r s)[c] = pixel h r c s := by
  fin_cases c <;> rfl

/-- Settles O53: channel number `k` of column `c` is byte `3 * c + k` of the 24 bytes that MemRead answers for a row. -/
theorem memReadReturnsTheBytesInOrder : Obligations.MemReadReturnsTheBytesInOrder := by
  refine ⟨fun h o n s => ⟨exists_memRead_of_le, memRead_eq_none_of_gt⟩, fun h r s => ?_⟩
  have hrow : 24 * r.val + 24 ≤ frameBytes := by simp only [frameBytes]; omega
  obtain ⟨l, hl, -, hbytes⟩ := exists_memRead_of_le (h := h) (s := s) hrow
  refine ⟨l, hl, fun c => ?_⟩
  rw [getElem_rowPixels, pixel]
  congr 1
  funext k
  have hk : 3 * c.val + k.val < 24 := by omega
  rw [List.getD_eq_getElem?_getD, hbytes _ hk, Option.getD_some, pixelOffset, Nat.add_assoc]

/-! ## MemWrite -/

/-- Outside the slot MemWrite is refused (R66, log 11). -/
theorem memWrite_ge {h : Handle} {o : Nat} (v : Byte) (s : State) (ho : frameBytes ≤ o) :
    memWrite h o v s = .refused .offsetOutOfRange := if_neg (Nat.not_lt.mpr ho)

/-- Settles O54: a write is read back at its own address only, and addresses of the pool space are distinct. -/
theorem memWriteChangesOneByte : Obligations.MemWriteChangesOneByte := by
  refine fun h o v s => ⟨fun ho => ⟨_, memWrite_lt v s ho, fun g p hp => ?_⟩, memWrite_ge v s⟩
  rw [lookup_write]
  exact if_congr (addr_eq_iff hp ho) rfl rfl

end Sys2Proof.Machine
end

section
/-! SUPPORT. Wire bytes and step words (30_encoding.md rules R90 to R99): a step word as its kind and operand, what the
decoder answers for every word, and its agreement with the encoder; the proofs of O1, O2, O4, O5 and O6. -/

namespace Sys2Proof.Machine

/-! ## The kind and the operand of a step word -/

@[simp] theorem stepKind_append (k : BitVec 4) (o : Byte) : stepKind (k ++ o) = k := extractLsb'_append_high k o

@[simp] theorem stepOperand_append (k : BitVec 4) (o : Byte) : stepOperand (k ++ o) = o := extractLsb'_append_low k o

/-- A step word is its kind followed by its operand, and nothing else (R97). -/
theorem exists_append (w : StepWord) : ∃ (k : BitVec 4) (o : Byte), w = k ++ o := by
  refine ⟨stepKind w, stepOperand w, ?_⟩
  have hw : stepKind w ++ stepOperand w = w.extractLsb' 0 (4 + 8) :=
    BitVec.extractLsb'_append_extractLsb'_eq_extractLsb' rfl
  exact (hw.trans BitVec.extractLsb'_eq_self).symm

/-- The kinds of the steps that take no operand (R97): DISP.TICK, CNT.INC, SS.BEGIN, SS.FINISH, RESET. -/
abbrev bareKinds : List (BitVec 4) := [0x1, 0x2, 0x3, 0x4, 0xF]

/-- The kinds fall into three classes: the carrier of a wire byte, the bare kinds, the reserved ones (R97, R98). -/
theorem kind_cases (k : BitVec 4) :
    k = 0x0 ∨ k ∈ bareKinds ∨ (0x5 ≤ k.toNat ∧ k.toNat ≤ 0xE) := by
  revert k
  decide

/-! ## Wire bytes -/

theorem decodeWire_of_ne {b : Byte} (hb : b ≠ sentinel) : decodeWire b = .rxData b := if_neg hb

theorem wellFormed_decodeWire (b : Byte) : (decodeWire b).wellFormed = true := by
  unfold decodeWire
  split
  · rfl
  · simpa [Instr.wellFormed]

/-- Settles O2: SYNC is tested first, and every other byte is its own operand. -/
theorem everyWireByteIsSyncOrData : Obligations.EveryWireByteIsSyncOrData :=
  ⟨rfl, fun _ hb => congrArg Except.ok (decodeWire_of_ne hb)⟩

/-! ## What the decoder answers, kind by kind -/

/-- Kind 0 carries a wire byte (R97). -/
theorem decodeStep_wire (o : Byte) : decodeStep ((0x0 : BitVec 4) ++ o) = .ok (decodeWire o) := by
  simp [decodeStep]

/-- A bare kind with operand 0 is the word of the step it decodes to (R97). -/
theorem decodeStep_bareKind {k : BitVec 4} (hk : k ∈ bareKinds) :
    ∃ i : Instr, decodeStep (k ++ (0x00 : Byte)) = .ok i ∧ i.wellFormed = true ∧ i.isStep = true ∧
      encode i = some (k ++ (0x00 : Byte)) := by
  simp only [bareKinds, List.mem_cons, List.not_mem_nil, or_false] at hk
  rcases hk with rfl | rfl | rfl | rfl | rfl <;> exact ⟨_, rfl, rfl, rfl, rfl⟩

/-- A bare kind with any other operand is rejected (R98). -/
theorem decodeStep_nonZeroOperand {k : BitVec 4} {o : Byte} (hk : k ∈ bareKinds) (ho : o ≠ 0) :
    decodeStep (k ++ o) = .error (.nonZeroOperand k o) := by
  simp only [bareKinds, List.mem_cons, List.not_mem_nil, or_false] at hk
  simp only [decodeStep, stepKind_append, stepOperand_append, if_neg ho]
  rcases hk with rfl | rfl | rfl | rfl | rfl <;> rfl

/-- Kinds 5 to E are rejected, whatever the operand (R98). -/
theorem decodeStep_reservedKind {k : BitVec 4} (o : Byte) (hk : 0x5 ≤ k.toNat ∧ k.toNat ≤ 0xE) :
    decodeStep (k ++ o) = .error (.reservedKind k) := by
  have hne : k ≠ 0x0 ∧ k ≠ 0x1 ∧ k ≠ 0x2 ∧ k ≠ 0x3 ∧ k ≠ 0x4 ∧ k ≠ 0xF := by
    revert k
    decide
  simp only [decodeStep, stepKind_append, hne, if_false]

/-- Settles O1: kind 0 carries the byte of RX.SYNC or RX.DATA, the other five words are constants. -/
theorem stepWordsDecodeAsTabled : Obligations.StepWordsDecodeAsTabled := by
  refine ⟨rfl, fun d hd => ?_, rfl, rfl, rfl, rfl, rfl⟩
  rw [decode, decodeStep_wire, decodeWire_of_ne hd]

/-! ## Decoder and encoder -/

theorem encode_decodeWire (b : Byte) : encode (decodeWire b) = some ((0x0 : BitVec 4) ++ b) := by
  by_cases hb : b = sentinel
  · subst hb
    rfl
  · rw [decodeWire_of_ne hb]
    exact if_neg hb

/-- A step word that is not rejected is the word of a well-formed step (R97, R98). -/
theorem encode_of_decodeStep {w : StepWord} {i : Instr} (h : decodeStep w = .ok i) :
    i.wellFormed = true ∧ i.isStep = true ∧ encode i = some w := by
  obtain ⟨k, o, rfl⟩ := exists_append w
  obtain rfl | hk | hk := kind_cases k
  · obtain rfl := Except.ok.inj ((decodeStep_wire o).symm.trans h)
    exact ⟨wellFormed_decodeWire o, isStep_decodeWire o, encode_decodeWire o⟩
  · by_cases ho : o = 0
    · subst ho
      obtain ⟨j, hj, hstep⟩ := decodeStep_bareKind hk
      obtain rfl := Except.ok.inj (hj.symm.trans h)
      exact hstep
    · cases (decodeStep_nonZeroOperand hk ho).symm.trans h
  · cases (decodeStep_reservedKind o hk).symm.trans h

/-- Settles O6: a word that decodes has kind 0, or a bare kind with operand 0. -/
theorem encodeDecodeAgree : Obligations.EncodeDecodeAgree := fun _ _ => encode_of_decodeStep

/-- The word of an operation decodes to it (R97). -/
theorem decodeStep_of_encode {i : Instr} {w : StepWord} (h : encode i = some w) : decodeStep w = .ok i := by
  cases i with
  | rxData d =>
    simp only [encode, Option.ite_none_left_eq_some, Option.some.injEq] at h
    obtain ⟨hd, rfl⟩ := h
    rw [decodeStep_wire, decodeWire_of_ne hd]
  | rxSync | dispTick | cntInc | ssBegin | ssFinish | reset =>
    obtain rfl := Option.some.inj h
    rfl
  | poolAcquire | poolRelease | pendInstall | pendTake | cntSignal | cntRead | rxDone => cases h

/-- The wire byte of an operation decodes to it (R91, R92). -/
theorem decodeWire_of_encodeWire {i : Instr} {b : Byte} (h : encodeWire i = some b) : decodeWire b = i := by
  cases i with
  | rxSync =>
    obtain rfl := Option.some.inj h
    rfl
  | rxData d =>
    simp only [encodeWire, Option.ite_none_left_eq_some, Option.some.injEq] at h
    obtain ⟨hd, rfl⟩ := h
    exact decodeWire_of_ne hd
  | _ => cases h

/-- An operation has a step word exactly when it is a well-formed step (R97, R99). -/
theorem isSome_encode (i : Instr) : (encode i).isSome = (i.wellFormed && i.isStep) := by
  cases i with
  | rxData d => exact Laws.Encodable.rxData d
  | _ => rfl

/-- A primitive has no wire byte (R99). -/
theorem encodeWire_of_not_isStep {i : Instr} (hi : i.isStep = false) : encodeWire i = none := by
  cases i with
  | rxSync | rxData => cases hi
  | _ => rfl

/-- A well-formed RX operation has a wire byte (R91, R92). -/
theorem exists_encodeWire {i : Instr} (hw : i.wellFormed = true) (hi : agentOf i = some .rx) :
    ∃ b, encodeWire i = some b := by
  cases i with
  | rxSync => exact ⟨sentinel, rfl⟩
  | rxData d => exact ⟨d, if_neg (by simpa [Instr.wellFormed] using hw)⟩
  | _ => simp [agentOf] at hi

/-- Settles O5: which operations have an encoding, and that the decoder inverts both encoders. -/
theorem decodeEncodeAgree : Obligations.DecodeEncodeAgree := by
  intro i hw
  refine ⟨fun hi => ?_, fun hi => ⟨?_, encodeWire_of_not_isStep hi⟩, fun b hb => ?_, exists_encodeWire hw⟩
  · obtain ⟨w, he⟩ := Option.isSome_iff_exists.mp ((isSome_encode i).trans (by simp [hw, hi]))
    exact ⟨w, he, decodeStep_of_encode he⟩
  · exact Option.isNone_iff_eq_none.mp (by simp [← Option.not_isSome, isSome_encode, hi])
  · exact congrArg Except.ok (decodeWire_of_encodeWire hb)

/-! ## What is refused -/

/-- The step words that are no step, by kind and operand (R98). -/
theorem exists_decodeStep_eq_error_iff (k : BitVec 4) (o : Byte) :
    (∃ e, decodeStep (k ++ o) = .error e) ↔
      (0x5 ≤ k.toNat ∧ k.toNat ≤ 0xE) ∨ (k.toNat ∈ [0x1, 0x2, 0x3, 0x4, 0xF] ∧ o ≠ 0) := by
  obtain rfl | hk | hk := kind_cases k
  · rw [decodeStep_wire]
    simp
  · have hbare : k.toNat ∈ [0x1, 0x2, 0x3, 0x4, 0xF] ∧ ¬(0x5 ≤ k.toNat ∧ k.toNat ≤ 0xE) := by
      revert k
      decide
    by_cases ho : o = 0
    · subst ho
      obtain ⟨i, hi, -⟩ := decodeStep_bareKind hk
      rw [hi]
      simp [hbare.2]
    · exact iff_of_true ⟨_, decodeStep_nonZeroOperand hk ho⟩ (.inr ⟨hbare.1, ho⟩)
  · exact iff_of_true ⟨_, decodeStep_reservedKind o hk⟩ (.inl hk)

/-- A unit that the decoder rejects is refused for the decoder's reason (R98). -/
theorem step_of_decode_error {s : State} {c : Coded} {rest : List Coded} {e : DecodeReject}
    (ht : s.trace = c :: rest) (hd : decode c = .error e) : step s = .refused (.notAStep e) := by
  simp [step, nextOffer, ht, hd]

/-- Every operation stands behind its enabling condition (R226). -/
theorem exec_eq_whenEnabled (i : Instr) (s : State) : ∃ effect, exec i s = whenEnabled i s effect := by
  cases i <;> exact ⟨_, rfl⟩

/-- An operation that is not enabled is refused (R98). -/
theorem exec_not_enabled {i : Instr} {s : State} (he : enabled i s = false) : exec i s = .refused .notEnabled := by
  obtain ⟨effect, h⟩ := exec_eq_whenEnabled i s
  simp [h, whenEnabled, he]

/-- Settles O4: the rejected words by kind, then the two ways a refusal comes about. -/
theorem nonStepsAreRefused : Obligations.NonStepsAreRefused := by
  refine ⟨fun w => ?_, fun _ _ _ _ => step_of_decode_error, fun _ _ _ => exec_not_enabled⟩
  obtain ⟨k, o, rfl⟩ := exists_append w
  rw [stepKind_append, stepOperand_append]
  exact exists_decodeStep_eq_error_iff k o

end Sys2Proof.Machine
end

section
/-! SUPPORT. The lines of a trace and what they expand to (30_encoding.md rules R102, R103): the proof of O7. -/

namespace Sys2Proof.Machine

theorem length_lineWords_times (n : Nat) (l : Line) :
    (lineWords (.times n l)).length = n * (lineWords l).length := by
  simp [lineWords, repeatWords]

theorem lineWords_fill (v : Byte) (n : Nat) : lineWords (.fill v n) = lineWords (.times n (.rx v)) :=
  List.flatten_replicate_singleton.symm

theorem lineWords_frame (vs : List Byte) : lineWords (.frame vs) = vs.flatMap fun v => lineWords (.rx v) :=
  List.map_eq_flatMap

/-- SSTICK after its SS.BEGIN (R103). -/
theorem ssTick_of_ssBegin {s u : State} (h : exec .ssBegin s = .next u) :
    ssTick s = if u.hold.isSome then exec .ssFinish u else .next u := by
  rw [ssTick, h, andThen_next]

/-- Settles O7: a repetition has its line's length n times over, and the other expansions are repetitions. -/
theorem traceNotationExpands : Obligations.TraceNotationExpands := by
  refine ⟨fun b => ⟨rfl, decodeStep_wire b⟩, ⟨rfl, rfl, rfl, rfl, rfl, rfl⟩,
    fun n l => ⟨rfl, length_lineWords_times n l⟩, rfl, fun v n => ⟨lineWords_fill v n, List.length_replicate⟩,
    ⟨rfl, rfl⟩, fun k0 k1 k2 => ⟨rfl, ?_⟩, fun vs => ⟨lineWords_frame vs, List.length_map _⟩,
    fun _ _ => ssTick_of_ssBegin⟩
  exact length_lineWords_times 64 (.frame [k0, k1, k2])

end Sys2Proof.Machine
end

section
/-! SUPPORT. What the spec gives no meaning (30_encoding.md rule R92, 20_memory.md rule R66, 40_pool.md rule R124,
60_exceptions.md rule R225): the operations that stop, one lemma each, and the proof of O33. -/

namespace Sys2Proof.Machine

/-- The handles that no caller of PEND.INSTALL can hold, or whose install would release a free slot (R124, R225). -/
abbrev InstallMisused (h : Handle) (s : State) : Prop :=
  freeGet s.free h = true ∨ s.pend = some h ∨ ∃ g, s.pend = some g ∧ freeGet s.free g = true

/-- Release of a free slot (R124). -/
theorem release_free {h : Handle} {s : State} (hh : freeGet s.free h = true) :
    release h s = .refused .handleNotHeld := if_pos hh

/-- Install of a free or pending handle, or over a pending frame whose slot is free (R225). -/
theorem install_misused {h : Handle} {s : State} (hm : InstallMisused h s) : install h s = .refused .handleNotHeld := by
  unfold install
  split
  · rfl
  · rename_i hn
    obtain hfree | hpend | ⟨g, hg, hgfree⟩ := hm
    · exact absurd (.inl hfree) hn
    · exact absurd (.inr hpend) hn
    · simp [hg, release_free hgfree]

theorem completeFrame_misused {s : State} (hm : InstallMisused s.asm s) :
    completeFrame s = .refused .handleNotHeld := by
  rw [completeFrame, install_misused hm, andThen_refused]

/-! ## The operations, without a fault -/

/-- RX.DATA as a term with the sentinel for its payload (R92, R95). -/
theorem exec_rxData_sentinel {s : State} (hf : s.fault = .noFault) :
    exec (.rxData sentinel) s = .refused .sentinelOperand :=
  whenEnabled_pos _ (by simp [enabled, hf])

/-- A byte beyond the buffer (R66). -/
theorem receiveByte_ge {d : Byte} {s : State} (ho : frameBytes ≤ s.off.toNat) :
    receiveByte d s = .refused .offsetOutOfRange := by
  rw [receiveByte, memWrite_ge d s ho, andThen_refused]

theorem exec_poolRelease {h : Handle} {s : State} (hf : s.fault = .noFault) :
    exec (.poolRelease h) s = returning none (release h s) :=
  whenEnabled_pos _ (by simp [enabled, hf])

theorem exec_pendInstall {h : Handle} {s : State} (hf : s.fault = .noFault) :
    exec (.pendInstall h) s = returning none (install h s) :=
  whenEnabled_pos _ (by simp [enabled, hf])

theorem exec_rxDone {s : State} (hf : s.fault = .noFault) : exec .rxDone s = returning none (completeFrame s) :=
  whenEnabled_pos _ (by simp [enabled, hf])

theorem exec_dispTick {s : State} (hf : s.fault = .noFault) : exec .dispTick s = advanceRow (emitRow s) :=
  whenEnabled_pos _ (by simp [enabled, hf])

/-- A swap that would release a slot that is free (R124, R177). -/
theorem advanceRow_misused {s : State} (hr : s.row = 7) (hp : s.pend ≠ none) (hc : freeGet s.free s.cur = true) :
    advanceRow s = .refused .handleNotHeld := by
  obtain ⟨g, hg⟩ := Option.ne_none_iff_exists'.mp hp
  have hrelease : ∀ u : State, u.free = s.free → release s.cur u = .refused .handleNotHeld :=
    fun u hu => release_free (hu ▸ hc)
  simp [advanceRow, hr, swapAtWrap, take, hg, hrelease]

/-- Settles O33: each operation reaches its refusal through the release, the install or the store it calls. -/
theorem misuseIsRefusedByName : Obligations.MisuseIsRefusedByName := by
  intro s hf
  refine ⟨exec_rxData_sentinel hf, fun d hd ho => ?_, fun h hfree => ?_, fun h hm => ⟨?_, fun hh => ?_, ?_⟩,
    fun hr hp hc => ?_⟩
  · rw [exec_rxData hf hd, receiveByte_ge ho]
  · rw [exec_poolRelease hf, release_free hfree, returning_refused]
  · rw [exec_pendInstall hf, install_misused hm, returning_refused]
  · rw [exec_ssFinish hf hh, install_misused (s := renderFrame h (paletteColor s) s) hm, andThen_refused]
  · rintro rfl
    refine ⟨?_, fun d hd ho => ?_⟩
    · rw [exec_rxDone hf, completeFrame_misused hm, returning_refused]
    · rw [exec_rxData hf hd, receiveByte_last ho]
      exact completeFrame_misused hm
  · rw [exec_dispTick hf, advanceRow_misused (s := emitRow s) hr hp hc]

end Sys2Proof.Machine
end

section
/-! SUPPORT. The Buffer Pool's primitives (40_pool.md rules R121, R122) and what the display reads (rule R123): the
proofs of O29, O30 and O51. -/

namespace Sys2Proof.Machine

/-! ## POOL.ACQUIRE -/

/-- With a free slot the policy chooses one (R121). -/
theorem exists_choose {f : FreeMap} (p : AcquirePolicy) (hf : ∃ g, freeGet f g = true) :
    ∃ h, choose p f = some h := by
  obtain ⟨g, hg⟩ := hf
  refine Option.ne_none_iff_exists'.mp fun hn => ?_
  simp [choose_none_iff.mp hn g] at hg

/-- The default policy takes the lowest free slot (R5). -/
theorem choose_default_le {f : FreeMap} {g h : Handle} (hc : choose Config.default.policy f = some h)
    (hg : freeGet f g = true) : h ≤ g := by
  obtain ⟨f0, f1, f2⟩ := f
  revert f0 f1 f2 g h
  decide

theorem acquire_of_choose {s : State} {h : Handle} (hc : choose s.cfg.policy s.free = some h) :
    acquire s = some (h, { s with free := freeSet s.free h false }) := by
  simp [acquire, hc]

theorem exec_poolAcquire_of_choose (who : Caller) {s : State} {h : Handle} (hf : s.fault = .noFault)
    (hc : choose s.cfg.policy s.free = some h) :
    exec (.poolAcquire who) s = .next { s with free := freeSet s.free h false, ret := some (.handle h) } := by
  rw [exec, execPoolAcquire, whenEnabled_pos _ (by simp [enabled, hf]), acquire_of_choose hc]
  rfl

theorem exec_poolAcquire_exhausted (who : Caller) {s : State} (hf : s.fault = .noFault)
    (hn : ∀ g, freeGet s.free g = false) : exec (.poolAcquire who) s = .next (raisePoolExhausted who s) := by
  rw [exec, execPoolAcquire, whenEnabled_pos _ (by simp [enabled, hf]), acquire_none hn]

/-- Settles O29: the policy chooses a slot when one is free, and only then. -/
theorem acquireTakesAFreeSlot : Obligations.AcquireTakesAFreeSlot := by
  refine fun who s hf => ⟨fun hfree => ?_, fun hn => ?_⟩
  · obtain ⟨h, hc⟩ := exists_choose s.cfg.policy hfree
    exact ⟨h, hc, choose_some hc, exec_poolAcquire_of_choose who hf hc, fun hp _ => choose_default_le (hp ▸ hc)⟩
  · exact ⟨_, exec_poolAcquire_exhausted who hf hn, rfl, rfl⟩

/-! ## POOL.RELEASE -/

/-- An outstanding slot that becomes free is one free slot more (R22, R37). -/
theorem freeCount_freeSet_true {f : FreeMap} {h : Handle} (hh : freeGet f h = false) :
    freeCount (freeSet f h true) = freeCount f + 1 := by
  obtain ⟨f0, f1, f2⟩ := f
  revert f0 f1 f2 h
  decide

/-- Settles O30: the release of a held slot, its bytes forgotten. -/
theorem releaseFreesTheSlot : Obligations.ReleaseFreesTheSlot := by
  intro h s hf hh
  refine ⟨s.mem.forget h, s.fresh + 1, ?_, freeCount_freeSet_true hh, lookup_forget h s.mem⟩
  rw [exec_poolRelease hf, release_held hh, returning_next]

/-! ## What the display reads -/

/-- A byte of the written part of a slot has a specified value, and that is what a read answers (R123). -/
theorem lookup_eq_readByte {h : Handle} {n o : Nat} {s : State} (hw : Written h n s) (ho : o < n) :
    s.mem.lookup (addr h o) = some (readByte h o s) := by
  obtain ⟨b, hb⟩ := Option.isSome_iff_exists.mp (hw o ho)
  rw [readByte, hb, Option.getD_some]

/-- The free values do not show in the written part of a slot (R123). -/
theorem readByte_fresh {h : Handle} {n o : Nat} {s : State} (hw : Written h n s) (ho : o < n) (k : Nat) :
    readByte h o { s with fresh := k } = readByte h o s :=
  Option.some.inj ((lookup_eq_readByte (s := { s with fresh := k }) hw ho).symm.trans (lookup_eq_readByte hw ho))

theorem pixel_fresh {h : Handle} {s : State} (hw : Written h frameBytes s) (r c : Fin 8) (n : Nat) :
    pixel h r c { s with fresh := n } = pixel h r c s :=
  congrArg (colorOfBytes s.cfg.rxchan) (funext fun k => readByte_fresh hw (pixelOffset_lt r c k) n)

theorem rowPixels_fresh {h : Handle} {s : State} (hw : Written h frameBytes s) (r : Fin 8) (n : Nat) :
    rowPixels h r { s with fresh := n } = rowPixels h r s := by
  simp only [rowPixels, pixel_fresh hw]

/-- Settles O51: by the invariant the displayed buffer is fully written. -/
theorem displayReadsOnlySpecifiedBytes : Obligations.DisplayReadsOnlySpecifiedBytes := by
  intro s r c k hs hf
  obtain ⟨-, -, -, hu⟩ := hs
  obtain ⟨-, -, hcur, -⟩ := hu hf
  exact ⟨lookup_eq_readByte hcur (pixelOffset_lt r c k), rowPixels_fresh hcur r⟩

end Sys2Proof.Machine
end

section
/-! SUPPORT. The acquire policy is never exercised (40_pool.md rule R125): what a step acquires from has at most one
free slot. First the operations case by case, in the direction opposite to their inversion lemmas; then the proof of
O35. -/

namespace Sys2Proof.Machine

/-! ## At most one slot is free -/

/-- With two holders at most one slot is free, so a free slot is the only one (R37). -/
theorem Owns.free_iff_eq {f : FreeMap} {l : List Handle} {g : Handle} (ho : Owns f l) (hl : 2 ≤ l.length)
    (hg : freeGet f g = true) (h : Handle) : freeGet f h = true ↔ h = g := by
  have hcount : freeCount f ≤ 1 := by
    have := ho.length_add_freeCount
    omega
  clear ho hl
  obtain ⟨f0, f1, f2⟩ := f
  revert f0 f1 f2 g h
  decide

/-- So it is in a state, for the displayed buffer and the one under assembly are held (R36). -/
theorem free_iff_eq_of_ownership {s : State} {g : Handle} (ho : Ownership s) (hg : freeGet s.free g = true)
    (h : Handle) : freeGet s.free h = true ↔ h = g :=
  Owns.free_iff_eq (owns_of_ownership ho (.refl _)) (by rw [length_holders]; omega) hg h

/-- So it is after the install of a completion, for the displayed buffer and the finished one are held (R158). -/
theorem free_iff_eq_of_install_asm {s u : State} {g : Handle} (ho : Ownership s) (hi : install s.asm s = .next u)
    (hg : freeGet u.free g = true) (h : Handle) : freeGet u.free h = true ↔ h = g :=
  (Owns.install hi (owns_of_ownership ho (holders_perm_asm s))).free_iff_eq (by simp) hg h

/-! ## The operations that acquire, and DISP.TICK, by their cases -/

theorem completeFrame_exhausted {s u : State} (hi : install s.asm s = .next u)
    (hn : ∀ g, freeGet u.free g = false) : completeFrame s = .next (raisePoolExhausted .rx u) := by
  rw [completeFrame, hi, andThen_next, acquire_none hn]

theorem completeFrame_forced {s u : State} {g : Handle} (hi : install s.asm s = .next u)
    (hg : ∀ h, freeGet u.free h = true ↔ h = g) :
    completeFrame s =
      .next { u with free := freeSet u.free g false, asm := g, off := 0, cntReq := u.cntReq + 1 } := by
  rw [completeFrame, hi, andThen_next, acquire_forced hg]
  rfl

theorem exec_ssBegin_changed {s : State} (hf : s.fault = .noFault) (hh : s.hold = none) (hc : s.cnt ≠ s.last) :
    exec .ssBegin s = .next { s with last := s.cnt, pal := s.pal + 1, ssDeadline := s.ssDeadline + 1 } := by
  rw [exec, execSsBegin, whenEnabled_pos _ (by simp [enabled, hf, hh]), if_pos (show readCnt s ≠ s.last from hc)]
  rfl

theorem exec_ssBegin_exhausted {s : State} (hf : s.fault = .noFault) (hh : s.hold = none) (hc : s.cnt = s.last)
    (hn : ∀ g, freeGet s.free g = false) : exec .ssBegin s = .next (raisePoolExhausted .ss s) := by
  rw [exec, execSsBegin, whenEnabled_pos _ (by simp [enabled, hf, hh]),
    if_neg (show ¬readCnt s ≠ s.last from not_not.mpr hc), acquire_none hn]

theorem exec_ssBegin_forced {s : State} {g : Handle} (hf : s.fault = .noFault) (hh : s.hold = none)
    (hc : s.cnt = s.last) (hg : ∀ h, freeGet s.free h = true ↔ h = g) :
    exec .ssBegin s = .next { s with hold := some g, free := freeSet s.free g false } := by
  rw [exec, execSsBegin, whenEnabled_pos _ (by simp [enabled, hf, hh]),
    if_neg (show ¬readCnt s ≠ s.last from not_not.mpr hc), acquire_forced hg]

theorem exec_dispTick_lt {s : State} (hf : s.fault = .noFault) (hr : s.row.val < 7) :
    exec .dispTick s = .next { s with out := s.out ++ [⟨s.row, rowPixels s.cur s.row s⟩], row := s.row + 1,
                                      dispDeadline := s.dispDeadline + 1 } := by
  rw [exec_dispTick hf, advanceRow, if_pos (show (emitRow s).row.val < 7 from hr)]
  rfl

theorem exec_dispTick_wrap_empty {s : State} (hf : s.fault = .noFault) (hr : s.row = 7) (hp : s.pend = none) :
    exec .dispTick s = .next { s with out := s.out ++ [⟨s.row, rowPixels s.cur s.row s⟩], row := 0,
                                      dispDeadline := s.dispDeadline + 1 } := by
  rw [exec_dispTick hf, advanceRow, if_neg (by simp [hr])]
  simp [swapAtWrap, take, hp, emitRow, emit]

theorem exec_dispTick_wrap_full {s : State} {g : Handle} (hf : s.fault = .noFault) (hr : s.row = 7)
    (hp : s.pend = some g) (hc : freeGet s.free s.cur = false) :
    exec .dispTick s =
      .next { s with out := s.out ++ [⟨s.row, rowPixels s.cur s.row s⟩], row := 0,
                     dispDeadline := s.dispDeadline + 1, pend := none, cur := g,
                     free := freeSet s.free s.cur true, mem := s.mem.forget s.cur, fresh := s.fresh + 1 } := by
  rw [exec_dispTick hf, advanceRow, if_neg (by simp [hr])]
  simp [swapAtWrap, take, hp, release, hc, emitRow, emit]

/-! ## The same state with another policy -/

/-- The state with acquire policy `p`. -/
def withPolicy (p : AcquirePolicy) (s : State) : State := { s with cfg := { s.cfg with policy := p } }

section

variable (p : AcquirePolicy)

theorem install_withPolicy {h : Handle} {s u : State} (hi : install h s = .next u) :
    install h (withPolicy p s) = .next (withPolicy p u) := by
  obtain ⟨hh, ⟨hp, rfl⟩ | ⟨g, hp, hne, hg, rfl⟩⟩ := install_cases hi
  · exact install_empty (s := withPolicy p s) hh hp
  · exact install_full (s := withPolicy p s) hh hg hp hne

/-- The acquire of a completion has no choice (R125, R158). -/
theorem completeFrame_withPolicy {s t : State} (ho : Ownership s) (h : completeFrame s = .next t) :
    completeFrame (withPolicy p s) = .next (withPolicy p t) := by
  obtain ⟨u, hi, ⟨hn, rfl⟩ | ⟨g, hg, rfl⟩⟩ := completeFrame_inv h
  · exact completeFrame_exhausted (install_withPolicy p hi) hn
  · have honly := free_iff_eq_of_install_asm ho hi hg
    exact completeFrame_forced (install_withPolicy p hi) honly

theorem exec_rxSync_withPolicy {s t : State} (h : exec .rxSync s = .next t) :
    exec .rxSync (withPolicy p s) = .next (withPolicy p t) := by
  obtain ⟨hf, rfl⟩ := exec_rxSync_inv h
  exact exec_rxSync (s := withPolicy p s) hf

theorem exec_rxData_withPolicy {d : Byte} {s t : State} (hs : Invariant s) (h : exec (.rxData d) s = .next t) :
    exec (.rxData d) (withPolicy p s) = .next (withPolicy p t) := by
  obtain ⟨hf, hd, hcases⟩ := exec_rxData_inv h
  obtain ⟨-, -, -, hu⟩ := hs
  obtain ⟨-, hown, -⟩ := hu hf
  rw [exec_rxData (s := withPolicy p s) hf hd]
  obtain ⟨hlt, rfl⟩ | ⟨hlast, hc⟩ := hcases
  · exact receiveByte_lt (s := withPolicy p s) hlt
  · rw [receiveByte_last (s := withPolicy p s) hlast]
    exact completeFrame_withPolicy p (s := { s with mem := s.mem.write (storeAddr s) d }) hown hc

theorem exec_dispTick_withPolicy {s t : State} (h : exec .dispTick s = .next t) :
    exec .dispTick (withPolicy p s) = .next (withPolicy p t) := by
  obtain ⟨hf, ⟨hr, rfl⟩ | ⟨hr, hp, rfl⟩ | ⟨g, hr, hp, hc, rfl⟩⟩ := exec_dispTick_inv h
  · exact exec_dispTick_lt (s := withPolicy p s) hf hr
  · exact exec_dispTick_wrap_empty (s := withPolicy p s) hf hr hp
  · exact exec_dispTick_wrap_full (s := withPolicy p s) hf hr hp hc

theorem exec_cntInc_withPolicy {s t : State} (h : exec .cntInc s = .next t) :
    exec .cntInc (withPolicy p s) = .next (withPolicy p t) := by
  obtain ⟨hf, hr, rfl⟩ := exec_cntInc_inv h
  exact exec_cntInc (s := withPolicy p s) hf hr

/-- The acquire of an idle tick has no choice (R125, R196). -/
theorem exec_ssBegin_withPolicy {s t : State} (hs : Invariant s) (h : exec .ssBegin s = .next t) :
    exec .ssBegin (withPolicy p s) = .next (withPolicy p t) := by
  obtain ⟨hf, hh, ⟨hc, rfl⟩ | ⟨hc, hn, rfl⟩ | ⟨g, hc, hg, rfl⟩⟩ := exec_ssBegin_inv h
  · exact exec_ssBegin_changed (s := withPolicy p s) hf hh hc
  · exact exec_ssBegin_exhausted (s := withPolicy p s) hf hh hc hn
  · obtain ⟨-, -, -, hu⟩ := hs
    obtain ⟨-, hown, -⟩ := hu hf
    exact exec_ssBegin_forced (s := withPolicy p s) hf hh hc (free_iff_eq_of_ownership hown hg)

theorem exec_ssFinish_withPolicy {s t : State} (h : exec .ssFinish s = .next t) :
    exec .ssFinish (withPolicy p s) = .next (withPolicy p t) := by
  obtain ⟨hf, g, u, hg, hi, rfl⟩ := exec_ssFinish_inv h
  have hrender : renderFrame g (paletteColor (withPolicy p s)) (withPolicy p s) =
      withPolicy p (renderFrame g (paletteColor s) s) := rfl
  rw [exec_ssFinish (s := withPolicy p s) hf hg, hrender, install_withPolicy p hi]
  rfl

theorem exec_reset_withPolicy {s t : State} (h : exec .reset s = .next t) :
    exec .reset (withPolicy p s) = .next (withPolicy p t) := by
  obtain rfl := Host.Outcome.next.inj ((exec_reset s).symm.trans h)
  rfl

end

/-- Settles O35: only a completion and an idle tick acquire, and by ownership each finds at most one free slot. -/
theorem acquirePolicyIsNeverExercised : Obligations.AcquirePolicyIsNeverExercised := by
  intro i p s t hs hi h
  cases i with
  | rxSync => exact exec_rxSync_withPolicy p h
  | rxData d => exact exec_rxData_withPolicy p hs h
  | dispTick => exact exec_dispTick_withPolicy p h
  | cntInc => exact exec_cntInc_withPolicy p h
  | ssBegin => exact exec_ssBegin_withPolicy p hs h
  | ssFinish => exact exec_ssFinish_withPolicy p h
  | reset => exact exec_reset_withPolicy p h
  | _ => cases hi

end Sys2Proof.Machine
end

section
/-! SUPPORT. The Pending Slot and the Change Counter (41_sync_primitives.md): PEND.INSTALL, PEND.TAKE, CNT.SIGNAL,
CNT.READ and CNT.INC, each without a fault; repeated increments and the wrap of the counter (rule R145); the proofs of
O25, O26, O27, O31 and O32. -/

namespace Sys2Proof.Machine

/-! ## The counter's operations -/

theorem exec_cntInc_not_owed {s : State} (hr : s.cntReq = 0) : exec .cntInc s = .refused .notEnabled :=
  exec_not_enabled (by simp [enabled, hr])

/-- Settles O25: with an increment owed the step is enabled, and with none it is not. -/
theorem cntIncPerformsOneIncrement : Obligations.CntIncPerformsOneIncrement :=
  fun _ hf => ⟨exec_cntInc hf, exec_cntInc_not_owed⟩

theorem exec_cntSignal {s : State} (hf : s.fault = .noFault) :
    exec .cntSignal s = .next { signal s with ret := none } :=
  whenEnabled_pos _ (by simp [enabled, hf])

theorem exec_cntRead {s : State} (hf : s.fault = .noFault) :
    exec .cntRead s = .next { s with ret := some (.count (readCnt s)) } :=
  whenEnabled_pos _ (by simp [enabled, hf])

/-- Settles O26: both are enabled, and return through their shared operation. -/
theorem signalAndReadOfTheCounter : Obligations.SignalAndReadOfTheCounter :=
  fun _ hf => ⟨exec_cntSignal hf, exec_cntRead hf⟩

/-- Increments that are all owed add up modulo 2^CW (R141). -/
theorem runOps_replicate_cntInc (n : Nat) {s : State} (hf : s.fault = .noFault)
    (hc : s.cnt < 2 ^ s.cfg.cw.bits) (hn : n ≤ s.cntReq) :
    runOps (List.replicate n .cntInc) s =
      .next { s with cnt := (s.cnt + n) % 2 ^ s.cfg.cw.bits, cntReq := s.cntReq - n } := by
  induction n generalizing s with
  | zero => simp [runOps, Nat.mod_eq_of_lt hc]
  | succ n ih =>
    have hinc : (increment s).cnt < 2 ^ (increment s).cfg.cw.bits := Nat.mod_lt _ (Nat.two_pow_pos _)
    have howed : n ≤ (increment s).cntReq := by rw [increment_cntReq]; omega
    have hcnt : ((s.cnt + 1) % 2 ^ s.cfg.cw.bits + n) % 2 ^ s.cfg.cw.bits = (s.cnt + (n + 1)) % 2 ^ s.cfg.cw.bits := by
      rw [Nat.mod_add_mod, Nat.add_assoc, Nat.add_comm 1 n]
    have hreq : s.cntReq - 1 - n = s.cntReq - (n + 1) := by omega
    rw [List.replicate_succ, runOps, exec_cntInc hf (by omega), andThen_next, ih (s := increment s) hf hinc howed,
      increment_cnt, increment_cntReq, increment_cfg, hcnt, hreq]
    rfl

/-- Settles O27: a multiple of the modulus, added modulo 2^CW, leaves the counter as it was. -/
theorem counterWrapAliases : Obligations.CounterWrapAliases := by
  intro k s hf hc hk
  rw [runOps_replicate_cntInc _ hf hc hk, Nat.add_mul_mod_self_right, Nat.mod_eq_of_lt hc]

/-! ## The Pending Slot -/

/-- Settles O31: the install into the empty slot, and the one over a frame that it releases. -/
theorem installReleasesTheDisplacedFrame : Obligations.InstallReleasesTheDisplacedFrame := by
  intro h s hf hh
  rw [exec_pendInstall hf]
  refine ⟨fun hp => ?_, fun g hp hne hg => ?_⟩
  · rw [install_empty hh hp, returning_next]
  · refine ⟨s.mem.forget g, s.fresh + 1, ?_, freeCount_freeSet_true hg, fun a ha => ?_⟩
    · rw [install_full hh hg hp hne, returning_next]
    · simp [ha]

theorem exec_pendTake {s : State} (hf : s.fault = .noFault) :
    exec .pendTake s = .next { (take s).2 with ret := some (.taken (take s).1) } :=
  whenEnabled_pos _ (by simp [enabled, hf])

/-- Settles O32: the take is enabled and touches the slot alone. -/
theorem takeEmptiesThePendingSlot : Obligations.TakeEmptiesThePendingSlot :=
  fun _ hf => exec_pendTake hf

end Sys2Proof.Machine
end

section
/-! SUPPORT. The accounting of the Change Counter over a run (41_sync_primitives.md rules R139, R141): a relation between
the two ends of a stretch of the run, which a step of an agent meets and which composes; the proof of O28. -/

namespace Sys2Proof.Machine

/-- Between `s` and `t`, `incs` increments are performed and `frames` frames completed, and the owed increments and
the counter account for them (R139, R141). -/
structure Counted (s t : State) (incs frames : Nat) : Prop where
  owed : incs + t.cntReq = s.cntReq + frames
  cnt : t.cnt = (s.cnt + incs) % 2 ^ s.cfg.cw.bits
  cfg : t.cfg = s.cfg

/-- A stretch that leaves the counter alone and signals each completed frame. -/
theorem Counted.of_cnt_eq {s t : State} {frames : Nat} (hc : s.cnt < 2 ^ s.cfg.cw.bits) (hcnt : t.cnt = s.cnt)
    (hreq : t.cntReq = s.cntReq + frames) (hcfg : t.cfg = s.cfg) : Counted s t 0 frames :=
  ⟨by omega, by rw [hcnt, Nat.add_zero, Nat.mod_eq_of_lt hc], hcfg⟩

theorem Counted.trans {s u t : State} {a b c d : Nat} (h : Counted s u a b) (h' : Counted u t c d) :
    Counted s t (a + c) (b + d) where
  owed := by
    have := h.owed
    have := h'.owed
    omega
  cnt := by rw [h'.cnt, h.cnt, h.cfg, Nat.mod_add_mod, Nat.add_assoc]
  cfg := h'.cfg.trans h.cfg

/-- The counter stays CW bits wide (R28). -/
theorem Counted.cnt_lt {s t : State} {a b : Nat} (h : Counted s t a b) : t.cnt < 2 ^ t.cfg.cw.bits := by
  rw [h.cnt, h.cfg]
  exact Nat.mod_lt _ (Nat.two_pow_pos _)

/-- A payload byte signals one frame if it is the last of a frame, and none otherwise (R141, R157). -/
theorem counted_rxData {d : Byte} {s t : State} (hc : s.cnt < 2 ^ s.cfg.cw.bits) (h : exec (.rxData d) s = .next t)
    (hf : t.fault = .noFault) : Counted s t 0 (completes (.rxData d) s).toNat := by
  obtain ⟨-, -, ⟨hlt, rfl⟩ | ⟨hlast, hcomplete⟩⟩ := exec_rxData_inv h
  · have hnot : completes (.rxData d) s = false := decide_eq_false (by omega)
    exact .of_cnt_eq hc rfl (by rw [hnot]; rfl) rfl
  · obtain ⟨f, m, n, g, rfl⟩ := completeFrame_frame hcomplete hf
    have hdone : completes (.rxData d) s = true := decide_eq_true hlast
    exact .of_cnt_eq hc rfl (by rw [hdone]; rfl) rfl

/-- CNT.INC performs one owed increment (R141). -/
theorem counted_cntInc {s t : State} (h : exec .cntInc s = .next t) : Counted s t 1 0 := by
  obtain ⟨-, hr, rfl⟩ := exec_cntInc_inv h
  exact ⟨by show 1 + (s.cntReq - 1) = s.cntReq; omega, rfl, rfl⟩

/-- Every step of an agent that does not fault is accounted for (R139, R141). -/
theorem counted_exec {i : Instr} {s t : State} (hi : i.isStep = true ∧ i ≠ .reset) (hc : s.cnt < 2 ^ s.cfg.cw.bits)
    (h : exec i s = .next t) (hf : t.fault = .noFault) :
    Counted s t ([i].count .cntInc) (completes i s).toNat := by
  obtain ⟨hstep, hreset⟩ := hi
  cases i with
  | rxSync =>
    obtain ⟨-, rfl⟩ := exec_rxSync_inv h
    exact .of_cnt_eq hc rfl rfl rfl
  | rxData d => exact counted_rxData hc h hf
  | dispTick =>
    obtain ⟨m, f, p, c, r, l, d, n, rfl⟩ := exec_dispTick_frame h
    exact .of_cnt_eq hc rfl rfl rfl
  | cntInc => exact counted_cntInc h
  | ssBegin =>
    obtain ⟨f, l, p, o, d, rfl⟩ := exec_ssBegin_frame h hf
    exact .of_cnt_eq hc rfl rfl rfl
  | ssFinish =>
    obtain ⟨m, f, p, l, o, d, n, rfl⟩ := exec_ssFinish_frame h
    exact .of_cnt_eq hc rfl rfl rfl
  | reset => exact absurd rfl hreset
  | _ => cases hstep

/-! ## Runs of the agents' steps -/

/-- A run ends through the state after its first operation. -/
theorem runOps_cons_eq_next {i : Instr} {is : List Instr} {s t : State} :
    runOps (i :: is) s = .next t ↔ ∃ u, exec i s = .next u ∧ runOps is u = .next t := andThen_eq_next

theorem completedFrames_cons {i : Instr} {is : List Instr} {s u : State} (h : exec i s = .next u) :
    completedFrames (i :: is) s = (completes i s).toNat + completedFrames is u := by
  simp [completedFrames, h]

/-- Only RESET is enabled under a fault (R226, R236). -/
theorem noFault_of_enabled {i : Instr} {s : State} (hi : i ≠ .reset) (he : enabled i s = true) :
    s.fault = .noFault := by
  cases i with
  | reset => exact absurd rfl hi
  | cntInc | ssBegin | ssFinish => exact faulted_eq_false.mp (by simpa using (Bool.and_eq_true_iff.mp he).1)
  | _ => simpa [enabled] using he

theorem noFault_of_exec {i : Instr} {s t : State} (hi : i ≠ .reset) (h : exec i s = .next t) :
    s.fault = .noFault := by
  obtain ⟨effect, he⟩ := exec_eq_whenEnabled i s
  obtain ⟨henabled, -⟩ := whenEnabled_eq_next.mp (he.symm.trans h)
  exact noFault_of_enabled hi henabled

/-- A run of the agents' steps that ends without a fault starts without one. -/
theorem noFault_of_runOps {is : List Instr} {s t : State} (his : AgentSteps is) (h : runOps is s = .next t)
    (hf : t.fault = .noFault) : s.fault = .noFault := by
  cases is with
  | nil =>
    obtain rfl := Host.Outcome.next.inj h
    exact hf
  | cons i is =>
    obtain ⟨u, hexec, -⟩ := runOps_cons_eq_next.mp h
    obtain ⟨-, hreset⟩ := his i List.mem_cons_self
    exact noFault_of_exec hreset hexec

/-- Every run of the agents' steps that ends without a fault is accounted for (R139, R141). -/
theorem counted_runOps {is : List Instr} {s t : State} (his : AgentSteps is) (hc : s.cnt < 2 ^ s.cfg.cw.bits)
    (h : runOps is s = .next t) (hf : t.fault = .noFault) :
    Counted s t (is.count .cntInc) (completedFrames is s) := by
  induction is generalizing s with
  | nil =>
    obtain rfl := Host.Outcome.next.inj h
    exact .of_cnt_eq hc rfl rfl rfl
  | cons i is ih =>
    obtain ⟨hi, his⟩ := List.forall_mem_cons.mp his
    obtain ⟨u, hexec, hrun⟩ := runOps_cons_eq_next.mp h
    have hstep := counted_exec hi hc hexec (noFault_of_runOps his hrun hf)
    rw [completedFrames_cons hexec, ← List.singleton_append, List.count_append]
    exact hstep.trans (ih his hstep.cnt_lt hrun)

/-- Settles O28: the account of a run, its two equations. -/
theorem everyFrameIsCountedOnce : Obligations.EveryFrameIsCountedOnce := by
  intro is s t his hc h hf
  obtain ⟨howed, hcnt, -⟩ := counted_runOps his hc h hf
  exact ⟨howed, hcnt⟩

end Sys2Proof.Machine
end

section
/-! SUPPORT. The Protocol Decoder (42_decoder.md): RX.SYNC, the completion sequence of a frame (rule R158), RX.DATA in
its two branches (rule R157), and a run of payload bytes (rule R160); the proofs of O9, O10, O11, O12, O13 and O14. -/

namespace Sys2Proof.Machine

/-! ## RX.SYNC -/

/-- Settles O9: the step is enabled without a fault, and the state with cursor 0 is a fixed point of it. -/
theorem rxSyncResetsTheCursorOnly : Obligations.RxSyncResetsTheCursorOnly := by
  refine fun s => ⟨fun hf => ?_, fun hf => exec_not_enabled (by simp [enabled, hf])⟩
  have hsync := exec_rxSync hf
  refine ⟨hsync, ?_, fun hoff => ?_⟩
  · rw [hsync, andThen_next]
    exact exec_rxSync (s := { s with off := 0 }) hf
  · rw [hsync, ← hoff]

/-! ## The completion sequence -/

/-- With fewer than three holders a slot is free (R37). -/
theorem Owns.exists_free {f : FreeMap} {l : List Handle} (ho : Owns f l) (hl : l.length < 3) :
    ∃ g, freeGet f g = true := by
  have hcount : 0 < freeCount f := by
    have := ho.length_add_freeCount
    omega
  clear ho hl
  obtain ⟨f0, f1, f2⟩ := f
  revert f0 f1 f2
  decide

/-- With three holders no slot is free (R37). -/
theorem Owns.free_eq_of_length_eq_three {f : FreeMap} {l : List Handle} (ho : Owns f l) (hl : l.length = 3) :
    f = ⟨false, false, false⟩ := by
  have hcount : freeCount f = 0 := by
    have := ho.length_add_freeCount
    omega
  clear ho hl
  obtain ⟨f0, f1, f2⟩ := f
  revert f0 f1 f2
  decide

/-- The decoder owns its buffer, so it can install it, over a pending frame too (R136, R158). -/
theorem exists_install_asm {s : State} (ho : Ownership s) : ∃ u, install s.asm s = .next u := by
  obtain ⟨hnodup, hheld⟩ := ho
  have hasm : freeGet s.free s.asm = false := (hheld s.asm).mpr (by simp [holders])
  cases hp : s.pend with
  | none => exact ⟨_, install_empty hasm hp⟩
  | some p =>
    have hpend : freeGet s.free p = false := (hheld p).mpr (by simp [holders, hp])
    obtain ⟨-, -, hpasm, -⟩ := nodup_holders_iff.mp hnodup
    exact ⟨_, install_full hasm hpend hp fun e => hpasm (e ▸ hp)⟩

/-- The hand-over (R158) with no buffer held by the Screensaver: after the install exactly one slot is free, the one
that was free before or else the displaced one, and it becomes the new buffer. -/
theorem completeFrame_of_hold_none {s : State} (ho : Ownership s) (hh : s.hold = none) :
    ∃ (g : Handle) (m : Memory) (n : Nat),
      completeFrame s = .next { s with mem := m, pend := some s.asm, asm := g, off := 0,
                                       free := ⟨false, false, false⟩, cntReq := s.cntReq + 1, fresh := n } ∧
      (s.pend = none → freeGet s.free g = true) ∧ (∀ p, s.pend = some p → g = p) ∧
      ∀ a, (∀ p, s.pend = some p → inSlot p a = false) → m.lookup a = s.mem.lookup a := by
  obtain ⟨u, hi⟩ := exists_install_asm ho
  have hbefore : Owns s.free (s.asm :: (s.pend.toList ++ [s.cur])) :=
    owns_of_ownership ho (by simpa [hh] using holders_perm_asm s)
  have hafter : Owns u.free [s.asm, s.cur] := hbefore.install hi
  obtain ⟨g, hg⟩ := hafter.exists_free (by simp)
  have honly : ∀ h, freeGet u.free h = true ↔ h = g := hafter.free_iff_eq (by simp) hg
  have hnone : freeSet u.free g false = ⟨false, false, false⟩ :=
    (hafter.acquire hg).free_eq_of_length_eq_three (by simp)
  have hdone := completeFrame_forced hi honly
  rw [hnone] at hdone
  have hmem : ∀ a, (∀ p, s.pend = some p → inSlot p a = false) → u.mem.lookup a = s.mem.lookup a :=
    fun _ => lookup_install hi
  obtain ⟨-, ⟨hp, rfl⟩ | ⟨p, hp, -, -, rfl⟩⟩ := install_cases hi
  · exact ⟨g, _, _, hdone, fun _ => hg, by simp [hp], hmem⟩
  · have hgp : p = g := (honly p).mp (by simp)
    exact ⟨g, _, _, hdone, by simp [hp], by simp [hp, hgp], hmem⟩

/-- Settles O12: RX.DONE is the hand-over, with no result. -/
theorem rxDoneHandsTheFrameOver : Obligations.RxDoneHandsTheFrameOver := by
  rintro s ⟨-, -, -, hu⟩ hf hh
  obtain ⟨-, hown, -⟩ := hu hf
  obtain ⟨g, m, n, hdone, hfacts⟩ := completeFrame_of_hold_none hown hh
  exact ⟨g, m, n, by rw [exec_rxDone hf, hdone, returning_next], hfacts⟩

/-! ## RX.DATA -/

/-- Settles O10: the store below the last offset. -/
theorem rxDataStoresAndAdvances : Obligations.RxDataStoresAndAdvances := fun d s hf hd hoff =>
  ⟨s.mem.write (storeAddr s) d, (exec_rxData hf hd).trans (receiveByte_lt hoff), lookup_write s.mem (storeAddr s) d⟩

/-- Settles O11: the store, then the hand-over, which does not read the memory it was given. -/
theorem rxDataCompletesTheFrame : Obligations.RxDataCompletesTheFrame := by
  rintro d s ⟨-, -, -, hu⟩ hf hd hoff hh
  obtain ⟨-, hown, -⟩ := hu hf
  obtain ⟨g, m, n, hdone, hfree, hdisplaced, hmem⟩ :=
    completeFrame_of_hold_none (s := { s with mem := s.mem.write (storeAddr s) d }) hown hh
  refine ⟨g, m, n, ?_, hfree, hdisplaced, fun a ha => (hmem a ha).trans (lookup_write _ _ _ _)⟩
  rw [exec_rxData hf hd, receiveByte_last hoff, hdone]

/-- A payload byte advances the cursor modulo 192 (R155). -/
theorem toNat_off_exec_rxData {d : Byte} {s t : State} (h : exec (.rxData d) s = .next t) (hf : t.fault = .noFault) :
    t.off.toNat = (s.off.toNat + 1) % frameBytes := by
  simp only [frameBytes]
  obtain ⟨-, -, ⟨hlt, rfl⟩ | ⟨hlast, hc⟩⟩ := exec_rxData_inv h
  · bv_omega
  · obtain ⟨f, m, n, g, rfl⟩ := completeFrame_frame hc hf
    simp [hlast]

/-- Settles O13: the two steps of the decoder, and the ownership of the cursor for the others. -/
theorem cursorTransitions : Obligations.CursorTransitions := by
  refine fun i s t _ hstep h hf => ⟨?_, ?_, fun hagent hreset => ?_⟩
  · rintro rfl
    obtain ⟨-, rfl⟩ := exec_rxSync_inv h
    rfl
  · rintro d rfl
    exact toNat_off_exec_rxData h hf
  · obtain ⟨howner, -⟩ := elementsAreWrittenByTheirOwners i s t hstep hreset h hf
    exact not_not.mp fun hne => hagent (howner (.inl hne))

/-! ## A run of payload bytes -/

theorem runOps_append (is js : List Instr) (s : State) :
    runOps (is ++ js) s = andThen (runOps is s) (runOps js) := by
  induction is generalizing s with
  | nil => rfl
  | cons i is ih =>
    rw [List.cons_append, runOps, runOps]
    cases exec i s with
    | next u => exact ih u
    | fault r => rfl
    | refused r => rfl

/-- One payload byte more. -/
theorem runOps_rxData_concat {bs : List Byte} {s u : State} (h : runOps (bs.map .rxData) s = .next u) (b : Byte) :
    runOps ((bs ++ [b]).map .rxData) s = exec (.rxData b) u := by
  rw [List.map_append, runOps_append, h, andThen_next, List.map_singleton, runOps]
  cases exec (.rxData b) u <;> rfl

/-- Every run of steps keeps the invariant. -/
theorem invariant_runOps {is : List Instr} {s t : State} (his : ∀ i ∈ is, i.isStep = true) (hs : Invariant s)
    (h : runOps is s = .next t) : Invariant t := by
  induction is generalizing s with
  | nil =>
    obtain rfl := Host.Outcome.next.inj h
    exact hs
  | cons i is ih =>
    obtain ⟨hi, his⟩ := List.forall_mem_cons.mp his
    obtain ⟨u, hexec, hrun⟩ := runOps_cons_eq_next.mp h
    exact ih his (invariant_exec hi hs hexec) hrun

/-- What stands at offset `o` once one byte more is stored, over a buffer that held `x` there. -/
theorem getElem?_concat_or (bs : List Byte) (b : Byte) (o : Nat) (x : Option Byte) :
    (bs ++ [b])[o]?.or x = if o = bs.length then some b else bs[o]?.or x := by
  obtain hlt | rfl | hgt := Nat.lt_trichotomy o bs.length
  · simp [List.getElem?_append_left hlt, Nat.ne_of_lt hlt]
  · simp
  · simp [Nat.ne_of_gt hgt, Nat.le_of_lt hgt, hgt]

/-- Payload bytes from cursor 0 that do not fill the buffer: byte `o` stands at offset `o`, the rest of the buffer and
every other slot read as before (R157, R159). -/
theorem runOps_rxData_of_length_lt {bs : List Byte} {s : State} (hf : s.fault = .noFault) (hoff : s.off = 0)
    (hlen : bs.length < frameBytes) (hbs : ∀ b ∈ bs, b ≠ sentinel) :
    ∃ m : Memory, runOps (bs.map .rxData) s = .next { s with mem := m, off := BitVec.ofNat 8 bs.length } ∧
      (∀ o, o < frameBytes → m.lookup (addr s.asm o) = bs[o]?.or (s.mem.lookup (addr s.asm o))) ∧
      ∀ a, inSlot s.asm a = false → m.lookup a = s.mem.lookup a := by
  induction bs using List.reverseRecOn with
  | nil =>
    have hstart : BitVec.ofNat 8 ([] : List Byte).length = s.off := hoff.symm
    exact ⟨s.mem, by rw [hstart]; rfl, by simp, fun _ _ => rfl⟩
  | append_singleton bs b ih =>
    obtain ⟨hbs, hb⟩ := List.forall_mem_append.mp hbs
    rw [List.length_append, List.length_singleton, frameBytes] at hlen
    have hlt : bs.length < frameBytes := by simp only [frameBytes]; omega
    obtain ⟨m, hrun, hin, hout⟩ := ih hlt hbs
    have hcursor : (BitVec.ofNat 8 bs.length).toNat = bs.length := Nat.mod_eq_of_lt (by omega)
    obtain ⟨m', hexec, hstore⟩ := rxDataStoresAndAdvances b { s with mem := m, off := BitVec.ofNat 8 bs.length } hf
      (hb b List.mem_cons_self) (by rw [hcursor]; omega)
    simp only [storeAddr, hcursor] at hstore
    refine ⟨m', ?_, fun o ho => ?_, fun a ha => ?_⟩
    · rw [runOps_rxData_concat hrun, hexec, List.length_append, List.length_singleton, BitVec.ofNat_add]
      rfl
    · simp only [hstore, addr_eq_iff ho hlt, hin o ho, getElem?_concat_or, true_and]
    · have hne : a ≠ addr s.asm bs.length := by
        rintro rfl
        simp [inSlot_addr hlt] at ha
      rw [hstore, if_neg hne, hout a ha]

/-- Settles O14: 191 bytes are stored in rising order, and the last one completes the frame; by ownership neither the
finished buffer nor the displayed one is the frame that the completion displaces. -/
theorem completedFrameIsTheLast192Bytes : Obligations.CompletedFrameIsTheLast192Bytes := by
  intro payload s hs hf hoff hh hlen hpay
  obtain rfl | ⟨bs, d, rfl⟩ := List.eq_nil_or_concat' payload
  · simp at hlen
  obtain ⟨hbs, hd⟩ := List.forall_mem_append.mp hpay
  have hlen' : bs.length = 191 := by simpa using hlen
  obtain ⟨m, hrun, hin, hout⟩ := runOps_rxData_of_length_lt hf hoff (by simp [hlen', frameBytes]) hbs
  rw [hlen'] at hrun
  have hinv := invariant_runOps (by simp [Instr.isStep]) hs hrun
  obtain ⟨g, m', n, hexec, -, -, hmem⟩ := rxDataCompletesTheFrame d _ hinv hf (hd d List.mem_cons_self) rfl hh
  obtain ⟨-, -, -, hu⟩ := hs
  obtain ⟨-, ⟨hnodup, -⟩, -⟩ := hu hf
  obtain ⟨hcur, hpcur, hpasm, -⟩ := nodup_holders_iff.mp hnodup
  have hkept : ∀ (h : Handle) (o : Nat), s.pend ≠ some h → o < 192 →
      m'.lookup (addr h o) = if addr h o = addr s.asm 191 then some d else m.lookup (addr h o) :=
    fun h o hp ho => hmem _ fun p hpend => inSlot_addr_of_ne ho fun e => hp (e ▸ hpend)
  refine ⟨_, (runOps_rxData_concat hrun d).trans hexec, rfl, rfl, rfl, rfl, hf, fun o ho => ?_, rfl, rfl, rfl, rfl,
    rfl, hh, fun o ho => ?_⟩
  · have hbyte : (bs ++ [d])[o]?.or (s.mem.lookup (addr s.asm o)) = (bs ++ [d])[o]? := by
      rw [List.getElem?_eq_getElem (by omega), Option.some_or]
    have hlast : addr s.asm o = addr s.asm 191 ↔ o = bs.length := by
      rw [addr_eq_iff ho (by decide), hlen', eq_self, true_and]
    refine (hkept s.asm o hpasm ho).trans ?_
    simp only [hlast, hin o ho, ← getElem?_concat_or, hbyte]
  · have hne : addr s.cur o ≠ addr s.asm 191 := fun e => hcur ((addr_eq_iff ho (by decide)).mp e).1
    refine (hkept s.cur o hpcur ho).trans ?_
    rw [if_neg hne, hout _ (inSlot_addr_of_ne ho hcur)]

end Sys2Proof.Machine
end

section
/-! SUPPORT. The Display Task (43_display.md): DISP.TICK in its cases, which steps move what is on display, the sequence
of rows over a run (rules R179, R180), an RX step inside a tick (rule R178), the wait of a pending frame (rule R186),
and the chain bytes of an event (rule R183); the proofs of O15, O16, O17, O18, O19 and O56. -/

namespace Sys2Proof.Machine

/-- Settles O15: the tick below the wrap, at the wrap with nothing pending, and with a swap. -/
theorem dispTickEmitsAndAdvances : Obligations.DispTickEmitsAndAdvances := by
  refine fun s hf => ⟨exec_dispTick_lt hf, fun hr hp => ?_, fun h hr hp hc => ?_,
    fun r c => getElem_rowPixels s.cur r c s⟩
  · rw [exec_dispTick_wrap_empty hf hr hp, hr]
  · refine ⟨s.mem.forget s.cur, s.fresh + 1, ?_, fun a ha => ?_⟩
    · rw [exec_dispTick_wrap_full hf hr hp hc, hr]
    · simp [ha]

/-! ## What is on display across a step -/

/-- The row index after a tick below the wrap. -/
theorem val_add_one_of_lt_seven {r : Fin 8} (hr : r.val < 7) : (r + 1).val = r.val + 1 :=
  Fin.val_add_one_of_lt (n := 7) hr

/-- A tick emits the row of its index; below row 7 it moves on in the same buffer, and else it wraps (R177). -/
theorem display_dispTick {s t : State} (h : exec .dispTick s = .next t) :
    t.out = s.out ++ [⟨s.row, rowPixels s.cur s.row s⟩] ∧
      (s.row.val < 7 ∧ t.cur = s.cur ∧ t.row.val = s.row.val + 1 ∨ s.row = 7 ∧ t.row = 0) := by
  obtain ⟨-, ⟨hr, rfl⟩ | ⟨hr, -, rfl⟩ | ⟨g, hr, -, -, rfl⟩⟩ := exec_dispTick_inv h
  · exact ⟨rfl, .inl ⟨hr, rfl, val_add_one_of_lt_seven hr⟩⟩
  · exact ⟨rfl, .inr ⟨hr, rfl⟩⟩
  · exact ⟨rfl, .inr ⟨hr, rfl⟩⟩

theorem agentOf_eq_disp {i : Instr} (h : agentOf i = some .disp) : i = .dispTick := by
  cases i with
  | dispTick => rfl
  | _ => simp [agentOf] at h

/-- No other step of an agent moves the displayed buffer, the row index or the output (R26, R27, R34). -/
theorem display_eq_of_exec {i : Instr} {s t : State} (hi : i.isStep = true ∧ i ≠ .reset) (hne : i ≠ .dispTick)
    (h : exec i s = .next t) (hf : t.fault = .noFault) : t.cur = s.cur ∧ t.row = s.row ∧ t.out = s.out := by
  obtain ⟨hstep, hreset⟩ := hi
  obtain ⟨-, howner, -⟩ := elementsAreWrittenByTheirOwners i s t hstep hreset h hf
  have hkept := mt howner fun hagent => hne (agentOf_eq_disp hagent)
  simp only [not_or, not_not] at hkept
  obtain ⟨hcur, hrow, hout, -⟩ := hkept
  exact ⟨hcur, hrow, hout⟩

/-- A row is a function of the slot's bytes once the slot is fully written (R123, R177). -/
theorem rowPixels_of_lookup_eq {h : Handle} {s t : State} (hw : Written h frameBytes s) (hcfg : t.cfg = s.cfg)
    (he : ∀ o, o < frameBytes → t.mem.lookup (addr h o) = s.mem.lookup (addr h o)) (r : Fin 8) :
    rowPixels h r t = rowPixels h r s := by
  have hbyte : ∀ o, o < frameBytes → readByte h o t = readByte h o s := fun o ho => by
    have ht := lookup_eq_readByte (written_of_lookup_eq hw he) ho
    rw [he o ho, lookup_eq_readByte hw ho] at ht
    exact (Option.some.inj ht).symm
  have hpixel : ∀ c, pixel h r c t = pixel h r c s := fun c => by
    simp only [pixel, hcfg, hbyte _ (pixelOffset_lt r c _)]
  simp only [rowPixels, hpixel]

/-- A step of an agent that leaves the displayed buffer on display leaves its rows as they are (R26, R179). -/
theorem rowPixels_cur_of_exec {i : Instr} {s t : State} (hs : Invariant s) (hi : i.isStep = true ∧ i ≠ .reset)
    (h : exec i s = .next t) (hf : t.fault = .noFault) (hcur : t.cur = s.cur) (r : Fin 8) :
    rowPixels t.cur r t = rowPixels s.cur r s := by
  obtain ⟨hstep, hreset⟩ := hi
  have hbytes := displayedBufferIsImmutable i s t hs hstep hreset h hf hcur
  obtain ⟨-, -, -, -, -, -, hcfg, -⟩ := elementsAreWrittenByTheirOwners i s t hstep hreset h hf
  obtain ⟨-, -, -, hu⟩ := hs
  obtain ⟨-, -, hwritten, -⟩ := hu (noFault_of_exec hreset h)
  rw [hcur]
  exact rowPixels_of_lookup_eq hwritten hcfg hbytes r

/-! ## The sequence of rows -/

/-- Between `s` and `t`, `ticks` rows are emitted, in sequence from the row index of `s` (R180). -/
structure RowsEmitted (s t : State) (ticks : Nat) : Prop where
  row : t.row.val = (s.row.val + ticks) % 8
  out : t.out.map (fun e => e.row.val) =
    s.out.map (fun e => e.row.val) ++ (List.range ticks).map fun n => (s.row.val + n) % 8

/-- A stretch that moves neither the row index nor the output. -/
theorem RowsEmitted.of_eq {s t : State} (hrow : t.row = s.row) (hout : t.out = s.out) : RowsEmitted s t 0 :=
  ⟨by rw [hrow, Nat.add_zero, Nat.mod_eq_of_lt s.row.isLt], by simp [hout]⟩

theorem RowsEmitted.trans {s u t : State} {a b : Nat} (h : RowsEmitted s u a) (h' : RowsEmitted u t b) :
    RowsEmitted s t (a + b) where
  row := by rw [h'.row, h.row, Nat.mod_add_mod, Nat.add_assoc]
  out := by
    have hrest : ∀ n, (u.row.val + n) % 8 = (s.row.val + (a + n)) % 8 := fun n => by
      rw [h.row, Nat.mod_add_mod, Nat.add_assoc]
    simp only [h'.out, h.out, hrest, List.range_add, List.map_append, List.map_map, List.append_assoc,
      Function.comp_def]

/-- DISP.TICK emits the row of its index and moves the index on, modulo 8 (R177). -/
theorem rowsEmitted_dispTick {s t : State} (h : exec .dispTick s = .next t) : RowsEmitted s t 1 := by
  obtain ⟨hout, hrow⟩ := display_dispTick h
  refine ⟨?_, by simp [hout, Nat.mod_eq_of_lt s.row.isLt]⟩
  obtain ⟨hlt, -, hnext⟩ | ⟨hlast, hwrap⟩ := hrow
  · omega
  · simp [hlast, hwrap]

theorem rowsEmitted_exec {i : Instr} {s t : State} (hi : i.isStep = true ∧ i ≠ .reset) (h : exec i s = .next t)
    (hf : t.fault = .noFault) : RowsEmitted s t ([i].count .dispTick) := by
  by_cases htick : i = .dispTick
  · obtain rfl := htick
    exact rowsEmitted_dispTick h
  · obtain ⟨-, hrow, hout⟩ := display_eq_of_exec hi htick h hf
    rw [List.count_cons_of_ne htick, List.count_nil]
    exact .of_eq hrow hout

/-- The rows of every run of the agents' steps are in sequence (R180). -/
theorem rowsEmitted_runOps {is : List Instr} {s t : State} (his : AgentSteps is) (h : runOps is s = .next t)
    (hf : t.fault = .noFault) : RowsEmitted s t (is.count .dispTick) := by
  induction is generalizing s with
  | nil =>
    obtain rfl := Host.Outcome.next.inj h
    exact .of_eq rfl rfl
  | cons i is ih =>
    obtain ⟨hi, hrest⟩ := List.forall_mem_cons.mp his
    obtain ⟨u, hexec, hrun⟩ := runOps_cons_eq_next.mp h
    have hstep := rowsEmitted_exec hi hexec (noFault_of_runOps hrest hrun hf)
    rw [← List.singleton_append, List.count_append]
    exact hstep.trans (ih hrest hrun)

/-- Settles O18: the sequence of a run, its row index and its rows. -/
theorem rowsAreEmittedInSequence : Obligations.RowsAreEmittedInSequence := by
  intro is s t his h hf
  obtain ⟨hrow, hout⟩ := rowsEmitted_runOps his h hf
  exact ⟨hrow, hout⟩

/-! ## The rows of one frame -/

/-- The next `n` events of a frame that stays on display, from the row index on (R179). -/
def rowsShown (s : State) (n : Nat) : List OutEvent :=
  (List.range' s.row.val n).map fun r => ⟨Fin.ofNat 8 r, rowPixels s.cur (Fin.ofNat 8 r) s⟩

@[simp] theorem rowsShown_zero (s : State) : rowsShown s 0 = [] := rfl

/-- The rows do not change with the state while it shows the same frame at the same row. -/
theorem rowsShown_congr {s u : State} (hrow : u.row = s.row)
    (hpx : ∀ r, rowPixels u.cur r u = rowPixels s.cur r s) (n : Nat) : rowsShown u n = rowsShown s n := by
  simp only [rowsShown, hrow, hpx]

/-- The row of the index comes first, then those of the same frame one row further on. -/
theorem rowsShown_succ {s u : State} (hrow : u.row.val = s.row.val + 1)
    (hpx : ∀ r, rowPixels u.cur r u = rowPixels s.cur r s) (n : Nat) :
    rowsShown s (n + 1) = ⟨s.row, rowPixels s.cur s.row s⟩ :: rowsShown u n := by
  have hr : Fin.ofNat 8 s.row.val = s.row := Fin.ofNat_val_eq_self s.row
  simp only [rowsShown, hrow, hpx, List.range'_succ, List.map_cons, hr]

theorem rowsShown_one (s : State) : rowsShown s 1 = [⟨s.row, rowPixels s.cur s.row s⟩] := by
  simp [rowsShown]

theorem rowsShown_eight {s : State} (hr : s.row = 0) :
    rowsShown s 8 = zeroToSeven.map fun r => ⟨r, rowPixels s.cur r s⟩ := by
  rw [rowsShown, hr]
  rfl

/-- Up to the wrap a run shows rows of the frame that is on display at its start, whatever runs between the ticks: no
tick but the one of row 7 swaps, and no step writes the displayed buffer (R179). -/
theorem out_runOps_to_wrap {is : List Instr} {s t : State} (hs : Invariant s) (his : AgentSteps is)
    (h : runOps is s = .next t) (hf : t.fault = .noFault) (hticks : s.row.val + is.count .dispTick ≤ 8) :
    t.out = s.out ++ rowsShown s (is.count .dispTick) := by
  induction is generalizing s with
  | nil =>
    obtain rfl := Host.Outcome.next.inj h
    simp
  | cons i is ih =>
    obtain ⟨hi, hrest⟩ := List.forall_mem_cons.mp his
    obtain ⟨u, hexec, hrun⟩ := runOps_cons_eq_next.mp h
    have hfu := noFault_of_runOps hrest hrun hf
    have hinv := invariant_exec hi.1 hs hexec
    have hpx := rowPixels_cur_of_exec hs hi hexec hfu
    by_cases htick : i = .dispTick
    · obtain rfl := htick
      rw [List.count_cons_self] at hticks ⊢
      obtain ⟨hout, ⟨-, hcur, hrow⟩ | ⟨hlast, -⟩⟩ := display_dispTick hexec
      · rw [ih hinv hrest hrun (by omega), hout, rowsShown_succ hrow (hpx hcur), List.append_assoc,
          List.singleton_append]
      · have hnone : is.count .dispTick = 0 := by omega
        rw [ih hinv hrest hrun (by omega), hout, hnone, rowsShown_zero, rowsShown_one, List.append_nil]
    · obtain ⟨hcur, hrow, hout⟩ := display_eq_of_exec hi htick hexec hfu
      rw [List.count_cons_of_ne htick] at hticks ⊢
      rw [ih hinv hrest hrun (hrow ▸ hticks), hout, rowsShown_congr hrow (hpx hcur)]

/-- Settles O17: eight ticks from row 0 go up to the wrap and no further. -/
theorem noTornFrames : Obligations.NoTornFrames := by
  intro is s t hs _ hr his h hf hticks
  rw [out_runOps_to_wrap hs his h hf (by simp [hr, hticks]), hticks, rowsShown_eight hr]

/-! ## An RX step inside a tick -/

/-- The state with output trace `l`. -/
def withOut (l : List OutEvent) (s : State) : State := { s with out := l }

section

variable (l : List OutEvent)

theorem install_withOut {h : Handle} {s u : State} (hi : install h s = .next u) :
    install h (withOut l s) = .next (withOut l u) := by
  obtain ⟨hh, ⟨hp, rfl⟩ | ⟨g, hp, hne, hg, rfl⟩⟩ := install_cases hi
  · exact install_empty (s := withOut l s) hh hp
  · exact install_full (s := withOut l s) hh hg hp hne

theorem completeFrame_withOut {s t : State} (ho : Ownership s) (h : completeFrame s = .next t) :
    completeFrame (withOut l s) = .next (withOut l t) := by
  obtain ⟨u, hi, ⟨hn, rfl⟩ | ⟨g, hg, rfl⟩⟩ := completeFrame_inv h
  · exact completeFrame_exhausted (install_withOut l hi) hn
  · have honly := free_iff_eq_of_install_asm ho hi hg
    exact completeFrame_forced (install_withOut l hi) honly

/-- No RX step reads or writes the output trace (R34, R178). -/
theorem exec_rx_withOut {i : Instr} {s t : State} (hs : Invariant s) (hi : agentOf i = some .rx)
    (h : exec i s = .next t) : exec i (withOut l s) = .next (withOut l t) := by
  cases i with
  | rxSync =>
    obtain ⟨hf, rfl⟩ := exec_rxSync_inv h
    exact exec_rxSync (s := withOut l s) hf
  | rxData d =>
    obtain ⟨hf, hd, hcases⟩ := exec_rxData_inv h
    obtain ⟨-, -, -, hu⟩ := hs
    obtain ⟨-, hown, -⟩ := hu hf
    rw [exec_rxData (s := withOut l s) hf hd]
    obtain ⟨hlt, rfl⟩ | ⟨hlast, hc⟩ := hcases
    · exact receiveByte_lt (s := withOut l s) hlt
    · rw [receiveByte_last (s := withOut l s) hlast]
      exact completeFrame_withOut l (s := { s with mem := s.mem.write (storeAddr s) d }) hown hc
  | _ => simp [agentOf] at hi

end

theorem emitRow_eq_withOut (s : State) :
    emitRow s = withOut (s.out ++ [⟨s.row, rowPixels s.cur s.row s⟩]) s := rfl

theorem isStep_of_agentOf_rx {i : Instr} (hi : agentOf i = some .rx) : i.isStep = true ∧ i ≠ .reset := by
  cases i with
  | rxSync | rxData d => simp [Instr.isStep]
  | _ => simp [agentOf] at hi

/-- An RX step commutes with the emission of a row (R178). -/
theorem exec_rx_emitRow {i : Instr} {s t : State} (hs : Invariant s) (hi : agentOf i = some .rx)
    (h : exec i s = .next t) (hf : t.fault = .noFault) : exec i (emitRow s) = .next (emitRow t) := by
  have hagent := isStep_of_agentOf_rx hi
  obtain ⟨hcur, hrow, hout⟩ := display_eq_of_exec hagent (by rintro rfl; simp [agentOf] at hi) h hf
  have hpx := rowPixels_cur_of_exec hs hagent h hf hcur
  rw [emitRow_eq_withOut t, hrow, hout, hpx]
  exact exec_rx_withOut _ hs hi h

/-- Settles O16: the RX step and the emission commute, and the rest of the tick follows. -/
theorem byteHandlerCommutesWithEmission : Obligations.ByteHandlerCommutesWithEmission := by
  intro i s t hs _ hi h hf
  rw [exec_rx_emitRow hs hi h hf, andThen_next, exec_dispTick hf]

/-! ## The wait of a pending frame -/

/-- One operation more at the end of a run. -/
theorem runOps_concat {is : List Instr} {s u : State} (h : runOps is s = .next u) (i : Instr) :
    runOps (is ++ [i]) s = exec i u := by
  rw [runOps_append, h, andThen_next, runOps]
  cases exec i u <;> rfl

/-- Ticks below the wrap move the row index and touch no buffer (R177). -/
theorem runOps_replicate_dispTick {n : Nat} {s : State} (hf : s.fault = .noFault) (hn : s.row.val + n ≤ 7) :
    ∃ r l d, runOps (List.replicate n .dispTick) s = .next { s with row := r, out := l, dispDeadline := d } ∧
      r.val = s.row.val + n := by
  induction n generalizing s with
  | zero => exact ⟨s.row, s.out, s.dispDeadline, rfl, rfl⟩
  | succ n ih =>
    have hr : s.row.val < 7 := by omega
    have hnext := val_add_one_of_lt_seven hr
    obtain ⟨r, l, d, hrun, hval⟩ := ih (s := { s with
      out := s.out ++ [⟨s.row, rowPixels s.cur s.row s⟩], row := s.row + 1, dispDeadline := s.dispDeadline + 1 }) hf
      (by simp only [hnext]; omega)
    refine ⟨r, l, d, ?_, by simp only [hnext] at hval; omega⟩
    rw [List.replicate_succ, runOps, exec_dispTick_lt hf hr, andThen_next, hrun]

/-- Settles O19: the ticks up to row 7, then the one that swaps; by ownership the frame it shows is not in the buffer it
releases. -/
theorem pendingFrameIsShownWithinEightTicks : Obligations.PendingFrameIsShownWithinEightTicks := by
  rintro h s ⟨-, -, -, hu⟩ hf hp
  obtain ⟨-, ⟨hnodup, hheld⟩, -⟩ := hu hf
  obtain ⟨-, hpcur, -⟩ := nodup_holders_iff.mp hnodup
  have hcur : freeGet s.free s.cur = false := (hheld s.cur).mpr (by simp [holders])
  have hne : h ≠ s.cur := fun e => hpcur (e ▸ hp)
  obtain ⟨r, l, d, hrun, hval⟩ := runOps_replicate_dispTick (n := 7 - s.row.val) hf (by omega)
  have hr : r = 7 := by omega
  have hcount : 8 - s.row.val = 7 - s.row.val + 1 := by omega
  rw [hcount, List.replicate_succ', runOps_concat hrun]
  refine ⟨_, exec_dispTick_wrap_full hf hr hp hcur, rfl, rfl, rfl, by simp, fun o ho => ?_⟩
  simp [inSlot_addr_of_ne ho hne]

/-! ## The chain bytes -/

/-- Settles O56: the pixel of column `7 - n` is the `n`-th of the eight that are chained. -/
theorem chainBytesInReverseColumnOrder : Obligations.ChainBytesInReverseColumnOrder := by
  intro e n
  fin_cases n <;> exact ⟨rfl, rfl, rfl, rfl⟩

end Sys2Proof.Machine
end

section
/-! SUPPORT. The Screensaver (44_screensaver.md): what SS.FINISH leaves behind (rules R197, R198), its commutation with
CNT.INC (rule R195), a whole tick by its branches (rules R196, R200); the proofs of O20, O21, O22, O23 and O24. -/

namespace Sys2Proof.Machine

/-! ## SS.BEGIN -/

/-- Settles O20: the changed branch. -/
theorem ssBeginRecordsActivity : Obligations.SsBeginRecordsActivity :=
  fun _ => exec_ssBegin_changed

/-- Settles O21: with nothing pending and nothing held two slots are outstanding, so the third is the one to acquire. -/
theorem ssBeginAcquiresWhenIdle : Obligations.SsBeginAcquiresWhenIdle := by
  rintro s ⟨-, -, -, hu⟩ hf hh hc hp
  obtain ⟨-, hown, -⟩ := hu hf
  have htwo : (holders s).length = 2 := by simp [length_holders, pendCount, holdCount, hp, hh]
  obtain ⟨g, hg⟩ := (owns_of_ownership hown (.refl _)).exists_free (by omega)
  exact ⟨g, hg, exec_ssBegin_forced hf hh hc (free_iff_eq_of_ownership hown hg)⟩

/-! ## SS.FINISH -/

theorem exec_ssFinish_empty {s : State} {h : Handle} (hf : s.fault = .noFault) (hh : s.hold = some h)
    (hfree : freeGet s.free h = false) (hp : s.pend = none) :
    exec .ssFinish s = .next { s with mem := (renderFrame h (paletteColor s) s).mem, pend := some h, hold := none,
                                      pal := s.pal + 1, ssDeadline := s.ssDeadline + 1 } := by
  rw [exec_ssFinish hf hh, install_empty (s := renderFrame h (paletteColor s) s) hfree hp]
  rfl

theorem exec_ssFinish_full {s : State} {h g : Handle} (hf : s.fault = .noFault) (hh : s.hold = some h)
    (hfree : freeGet s.free h = false) (hg : freeGet s.free g = false) (hp : s.pend = some g) (hne : g ≠ h) :
    exec .ssFinish s = .next { s with mem := (renderFrame h (paletteColor s) s).mem.forget g, pend := some h,
                                      hold := none, pal := s.pal + 1, ssDeadline := s.ssDeadline + 1,
                                      free := freeSet s.free g true, fresh := s.fresh + 1 } := by
  rw [exec_ssFinish hf hh, install_full (s := renderFrame h (paletteColor s) s) hfree hg hp hne]
  rfl

/-- An install keeps every byte of the frame it installs: the slot it releases is another one (R136). -/
theorem lookup_install_self {h : Handle} {s u : State} (hi : install h s = .next u) {o : Nat} (ho : o < frameBytes) :
    u.mem.lookup (addr h o) = s.mem.lookup (addr h o) := by
  obtain ⟨-, ⟨-, rfl⟩ | ⟨g, -, hne, -, rfl⟩⟩ := install_cases hi
  · rfl
  · simp [inSlot_addr_of_ne ho hne.symm]

/-- After SS.FINISH the buffer that was held has the frame of the palette's colour (R197, R198). -/
theorem lookup_exec_ssFinish_rendered {s t : State} {h : Handle} (hexec : exec .ssFinish s = .next t)
    (hh : s.hold = some h) (r c : Fin 8) (k : Fin 3) :
    t.mem.lookup (addr h (pixelOffset r c k)) =
      some (colorByte s.cfg.rxchan (Config.ssPixel r c (paletteColor s)) k) := by
  obtain ⟨-, g, u, hg, hi, rfl⟩ := exec_ssFinish_inv hexec
  obtain rfl := Option.some.inj (hg.symm.trans hh)
  exact (lookup_install_self hi (pixelOffset_lt r c k)).trans (lookup_writeFrameBytes ..)

/-- Settles O22: the install of the rendered buffer into the empty slot, and the one over a frame that it releases. -/
theorem ssFinishRendersAndInstalls : Obligations.SsFinishRendersAndInstalls := by
  refine fun h s hf hh hfree => ⟨fun hp => ?_, fun g hp hne hg => ?_⟩
  · have hexec := exec_ssFinish_empty hf hh hfree hp
    have hbytes := lookup_exec_ssFinish_rendered hexec hh
    exact ⟨_, hexec, hbytes, fun a ha => lookup_exec_ssFinish hexec (by simpa [hh] using ha) (by simp [hp])⟩
  · have hexec := exec_ssFinish_full hf hh hfree hg hp hne
    have hbytes := lookup_exec_ssFinish_rendered hexec hh
    exact ⟨_, _, hexec, hbytes,
      fun a ha hga => lookup_exec_ssFinish hexec (by simpa [hh] using ha) (by simpa [hp] using hga)⟩

/-! ## CNT.INC between the two steps of a tick -/

/-- An install neither reads nor writes the counter and the owed increments (R136). -/
theorem install_increment (h : Handle) (s : State) :
    install h (increment s) = andThen (install h s) fun u => .next (increment u) := by
  by_cases hm : InstallMisused h s
  · rw [install_misused hm, install_misused (s := increment s) hm, andThen_refused]
  · simp only [InstallMisused, not_or, not_exists, not_and, Bool.not_eq_true] at hm
    obtain ⟨hfree, hne, hdisplaced⟩ := hm
    cases hp : s.pend with
    | none =>
      rw [install_empty hfree hp, install_empty (s := increment s) hfree hp]
      rfl
    | some g =>
      have hgh : g ≠ h := fun e => hne (e ▸ hp)
      have hg := hdisplaced g hp
      rw [install_full hfree hg hp hgh, install_full (s := increment s) hfree hg hp hgh]
      rfl

/-- Settles O23: the render and the install do not read the counter, and an increment that is owed stays owed across
them. -/
theorem cntIncCommutesWithSsFinish : Obligations.CntIncCommutesWithSsFinish := by
  intro s hf hr hh
  obtain ⟨h, hh⟩ := Option.ne_none_iff_exists'.mp hh
  have hrender : renderFrame h (paletteColor (increment s)) (increment s) =
      increment (renderFrame h (paletteColor s) s) := rfl
  rw [exec_cntInc hf hr, andThen_next, exec_ssFinish (s := increment s) hf hh, exec_ssFinish hf hh, hrender,
    install_increment]
  cases hi : install h (renderFrame h (paletteColor s) s) with
  | next u =>
    obtain ⟨hfu, hru⟩ : u.fault = .noFault ∧ 0 < u.cntReq := by
      obtain ⟨f, m, n, rfl⟩ := install_frame hi
      exact ⟨hf, hr⟩
    exact (exec_cntInc (s := advancePalette { u with hold := none }) hfu hru).symm
  | fault r => rfl
  | refused r => rfl

/-! ## A whole tick -/

/-- A tick that does not fault: the changed branch, which ends with SS.BEGIN, or SS.FINISH with the slot that was
acquired (R103, R196). -/
theorem ssTick_cases {s t : State} (h : ssTick s = .next t) (hf : t.fault = .noFault) :
    (s.cnt ≠ s.last ∧ t = { s with last := s.cnt, pal := s.pal + 1, ssDeadline := s.ssDeadline + 1 }) ∨
    (s.cnt = s.last ∧ ∃ g, freeGet s.free g = true ∧
      exec .ssFinish { s with hold := some g, free := freeSet s.free g false } = .next t) := by
  obtain ⟨u, hbegin, hrest⟩ := andThen_eq_next.mp h
  have hfu : u.fault = .noFault := by
    split at hrest
    · exact noFault_of_exec (by simp) hrest
    · obtain rfl := Host.Outcome.next.inj hrest
      exact hf
  obtain ⟨-, hh, ⟨hc, rfl⟩ | ⟨-, -, rfl⟩ | ⟨g, hc, hg, rfl⟩⟩ := exec_ssBegin_inv hbegin
  · exact .inl ⟨hc, by simpa [hh] using hrest.symm⟩
  · exact absurd hfu (faultOf_ne_noFault .ss)
  · exact .inr ⟨hc, g, hg, hrest⟩

/-- What SS.FINISH leaves in the Pending Slot and in the elements of the Screensaver (R197, R205). -/
theorem exec_ssFinish_elements {s t : State} {h : Handle} (hexec : exec .ssFinish s = .next t)
    (hh : s.hold = some h) :
    t.pend = some h ∧ t.hold = none ∧ t.pal = s.pal + 1 ∧ t.ssDeadline = s.ssDeadline + 1 := by
  obtain ⟨-, g, u, hg, hi, rfl⟩ := exec_ssFinish_inv hexec
  obtain rfl := Option.some.inj (hg.symm.trans hh)
  obtain ⟨f, m, n, rfl⟩ := install_frame hi
  exact ⟨rfl, rfl, rfl, rfl⟩

/-- Settles O24: SS.BEGIN advances the palette on the changed branch, SS.FINISH on the other. -/
theorem paletteAdvancesOnEveryTick : Obligations.PaletteAdvancesOnEveryTick := by
  intro s t _ hh h hf
  obtain ⟨hc, rfl⟩ | ⟨hc, g, -, hfinish⟩ := ssTick_cases h hf
  · exact ⟨Fin.val_add s.pal 1, rfl, hh, fun _ => ⟨rfl, rfl⟩, fun he => absurd he hc⟩
  · obtain ⟨hpend, hhold, hpal, hdeadline⟩ := exec_ssFinish_elements hfinish rfl
    have hbytes := lookup_exec_ssFinish_rendered hfinish rfl
    refine ⟨?_, hdeadline, hhold, fun hne => absurd hc hne, fun _ => ⟨g, hpend, hbytes⟩⟩
    rw [hpal]
    exact Fin.val_add s.pal 1

end Sys2Proof.Machine
end

section
/-! SUPPORT. Color arithmetic (44_screensaver.md rule R202): the value of a channel of a product and of a quotient, and
the proof of O57. -/

namespace Sys2Proof.Machine

theorem toNat_mulChannel (c : Byte) (k : Config.Scalar) :
    (mulChannel c k).toNat = min (roundTo (Config.mulRoundsUp c k) (c.toNat * k)) 255 := saturate_toNat _

theorem toNat_divChannel (c : Byte) {k : Config.Scalar} (hk : k ≠ 0) :
    (divChannel c k).toNat = min (roundTo (Config.divRoundsUp c k) (c.toNat / k)) 255 := by
  rw [divChannel, if_neg hk, saturate_toNat]

/-- Settles O57: a channel is the exact value rounded to an integer next to it and saturated, and rounding keeps an
integer. -/
theorem colorArithmeticSaturates : Obligations.ColorArithmeticSaturates := by
  intro c k ch
  rw [colorChannel_colorMul, colorChannel_colorDiv]
  refine ⟨⟨_, roundTo_eq _ _, toNat_mulChannel _ k⟩, fun hk => ⟨_, roundTo_eq _ _, toNat_divChannel _ hk⟩,
    fun n hn => ?_, fun n hk hn => ?_⟩
  · rw [toNat_mulChannel, hn, roundTo_natCast]
  · rw [toNat_divChannel _ hk, hn, roundTo_natCast]

end Sys2Proof.Machine
end

section
/-! SUPPORT. The fault and the enabling conditions (60_exceptions.md): when a step raises the fault (rules R221, R222),
what runs under it (rules R236, R237), and that an enabled step has a next state (rules R226, R233); the proofs of O36,
O37, O38, O39 and O47. -/

namespace Sys2Proof.Machine

/-! ## The pool is exhausted -/

/-- With three holders an acquire finds no slot (R37, R121). -/
theorem Owns.freeGet_eq_false {f : FreeMap} {l : List Handle} (ho : Owns f l) (hl : l.length = 3) (g : Handle) :
    freeGet f g = false := by
  rw [ho.free_eq_of_length_eq_three hl]
  revert g
  decide

/-- The hand-over (R158) while the Screensaver holds a buffer: after the install the finished frame, the displayed one
and the held one take all three slots, so the acquire raises the fault (R222). -/
theorem completeFrame_of_hold_ne_none {s : State} (ho : Ownership s) (hh : s.hold ≠ none) :
    ∃ u, completeFrame s = .next (raisePoolExhausted .rx u) ∧ u.out = s.out := by
  obtain ⟨g, hg⟩ := Option.ne_none_iff_exists'.mp hh
  obtain ⟨u, hi⟩ := exists_install_asm ho
  have hbefore : Owns s.free (s.asm :: (s.pend.toList ++ [s.cur, g])) :=
    owns_of_ownership ho (by simpa [hg] using holders_perm_asm s)
  have hafter : Owns u.free [s.asm, s.cur, g] := hbefore.install hi
  refine ⟨u, completeFrame_exhausted hi (hafter.freeGet_eq_false rfl), ?_⟩
  obtain ⟨f, m, n, rfl⟩ := install_frame hi
  rfl

/-- Settles O37: the store of the last byte, then a hand-over that finds the pool exhausted. -/
theorem completionUnderScreensaverFaults : Obligations.CompletionUnderScreensaverFaults := by
  rintro d s ⟨-, -, -, hu⟩ hf hd hoff hh
  obtain ⟨-, hown, -⟩ := hu hf
  obtain ⟨u, hdone, hout⟩ :=
    completeFrame_of_hold_ne_none (s := { s with mem := s.mem.write (storeAddr s) d }) hown hh
  refine ⟨raisePoolExhausted .rx u, ?_, rfl, rfl, hout⟩
  rw [exec_rxData hf hd, receiveByte_last hoff, hdone]

/-- Settles O38: a pending frame is the third holder beside the displayed buffer and the one under assembly. -/
theorem idleTickWhilePendingFaults : Obligations.IdleTickWhilePendingFaults := by
  rintro s ⟨-, -, -, hu⟩ hf hh hc hp
  obtain ⟨-, hown, -⟩ := hu hf
  obtain ⟨p, hp⟩ := Option.ne_none_iff_exists'.mp hp
  have hthree : (holders s).length = 3 := by simp [length_holders, pendCount, holdCount, hp, hh]
  have hexhausted := (owns_of_ownership hown (.refl _)).freeGet_eq_false hthree
  exact ⟨_, exec_ssBegin_exhausted hf hh hc hexhausted, rfl, rfl, rfl⟩

/-! ## The fault code after a step -/

/-- RX.DATA has a next state, which is a fault exactly when it completes a frame while the Screensaver holds a buffer
(R222). -/
theorem exists_exec_rxData {d : Byte} {s : State} (hs : Invariant s) (hf : s.fault = .noFault) (hd : d ≠ sentinel) :
    ∃ t, exec (.rxData d) s = .next t ∧
      t.fault = if s.off.toNat = 191 ∧ s.hold ≠ none then .poolExhaustedRx else .noFault := by
  have ⟨_, _, _, hu⟩ := hs
  obtain ⟨hoff, -⟩ := hu hf
  by_cases hlast : s.off.toNat = 191
  · by_cases hh : s.hold = none
    · obtain ⟨g, m, n, hexec, -⟩ := rxDataCompletesTheFrame d s hs hf hd hlast hh
      exact ⟨_, hexec, by simp [hh, hf]⟩
    · obtain ⟨t, hexec, hfault, -⟩ := completionUnderScreensaverFaults d s hs hf hd hlast hh
      exact ⟨t, hexec, by simp [hlast, hh, hfault]⟩
  · have hlt : s.off.toNat < 191 := by simp only [frameBytes] at hoff; omega
    exact ⟨_, (exec_rxData hf hd).trans (receiveByte_lt hlt), by simp [hlast, hf]⟩

/-- SS.BEGIN has a next state, which is a fault exactly on the idle branch while a frame is pending (R222). -/
theorem exists_exec_ssBegin {s : State} (hs : Invariant s) (hf : s.fault = .noFault) (hh : s.hold = none) :
    ∃ t, exec .ssBegin s = .next t ∧
      t.fault = if s.cnt = s.last ∧ s.pend ≠ none then .poolExhaustedSs else .noFault := by
  by_cases hc : s.cnt = s.last
  · by_cases hp : s.pend = none
    · obtain ⟨g, -, hexec⟩ := ssBeginAcquiresWhenIdle s hs hf hh hc hp
      exact ⟨_, hexec, by simp [hp, hf]⟩
    · obtain ⟨t, hexec, hfault, -⟩ := idleTickWhilePendingFaults s hs hf hh hc hp
      exact ⟨t, hexec, by simp [hc, hp, hfault]⟩
  · exact ⟨_, exec_ssBegin_changed hf hh hc, by simp [hc, hf]⟩

/-- No other step acquires a buffer, so none of them faults (R222). -/
theorem noFault_exec_of_ne {i : Instr} {s t : State} (hi : i.isStep = true) (hdata : ∀ d, i ≠ .rxData d)
    (hbegin : i ≠ .ssBegin) (h : exec i s = .next t) : t.fault = .noFault := by
  cases i with
  | rxSync =>
    obtain ⟨hf, rfl⟩ := exec_rxSync_inv h
    exact hf
  | rxData d => exact absurd rfl (hdata d)
  | dispTick =>
    obtain ⟨hf, -⟩ := exec_dispTick_inv h
    obtain ⟨m, f, p, c, r, l, d, n, rfl⟩ := exec_dispTick_frame h
    exact hf
  | cntInc =>
    obtain ⟨hf, -, rfl⟩ := exec_cntInc_inv h
    exact hf
  | ssBegin => exact absurd rfl hbegin
  | ssFinish =>
    obtain ⟨hf, -⟩ := exec_ssFinish_inv h
    obtain ⟨m, f, p, l, o, d, n, rfl⟩ := exec_ssFinish_frame h
    exact hf
  | reset =>
    obtain rfl := Host.Outcome.next.inj ((exec_reset s).symm.trans h)
    rfl
  | _ => cases hi

/-- Settles O36: the fault code of each of the two steps that acquire, and that no other step faults. -/
theorem faultExactlyWhenThePoolIsExhausted : Obligations.FaultExactlyWhenThePoolIsExhausted := by
  intro i s t hs _ hi h
  by_cases hdata : ∃ d, i = .rxData d
  · obtain ⟨d, rfl⟩ := hdata
    obtain ⟨hf, hd, -⟩ := exec_rxData_inv h
    obtain ⟨u, hu, hfault⟩ := exists_exec_rxData hs hf hd
    obtain rfl := Host.Outcome.next.inj (hu.symm.trans h)
    simp [hfault, ite_eq_iff]
  · by_cases hbegin : i = .ssBegin
    · subst hbegin
      obtain ⟨hf, hh, -⟩ := exec_ssBegin_inv h
      obtain ⟨u, hu, hfault⟩ := exists_exec_ssBegin hs hf hh
      obtain rfl := Host.Outcome.next.inj (hu.symm.trans h)
      simp [hfault, ite_eq_iff]
    · rw [noFault_exec_of_ne hi (not_exists.mp hdata) hbegin h]
      simp [hdata, hbegin]

/-! ## Under a fault -/

/-- Under a fault a step of the machine takes at most an ignored byte off the trace, or it runs RESET (R42, R236). -/
theorem step_cases_of_fault {s t : State} (hf : s.fault ≠ .noFault) (h : step s = .next t) :
    (∃ rest, t = { s with trace := rest }) ∨
      ∃ c rest, s.trace = c :: rest ∧ decode c = .ok .reset ∧ t = resetFrom { s with trace := rest } := by
  cases ht : s.trace with
  | nil =>
    rw [step_nil ht] at h
    exact .inl ⟨s.trace, (Host.Outcome.next.inj h).symm⟩
  | cons c rest =>
    cases hd : decode c with
    | error e => cases (step_of_decode_error ht hd).symm.trans h
    | ok i =>
      rw [step_cons ht hd] at h
      split at h
      · exact .inl ⟨rest, (Host.Outcome.next.inj h).symm⟩
      · by_cases hi : i = .reset
        · subst hi
          exact .inr ⟨c, rest, rfl, hd, (Host.Outcome.next.inj ((exec_reset _).symm.trans h)).symm⟩
        · exact absurd (noFault_of_exec hi h) hf

/-- Settles O39: RESET alone is enabled under a fault, and a step that is not RESET keeps all but the trace. -/
theorem onlyResetLeavesTheFault : Obligations.OnlyResetLeavesTheFault := by
  refine fun s hf => ⟨fun i hi => ?_, ⟨_, exec_reset s, rfl⟩, fun t h hft => ?_, fun t h hft => ?_⟩
  · have hnot : ¬enabled i s = true := mt (noFault_of_enabled hi) hf
    exact exec_not_enabled (Bool.eq_false_iff.mpr hnot)
  · obtain ⟨rest, rfl⟩ | ⟨c, rest, ht, hd, -⟩ := step_cases_of_fault hf h
    · exact absurd hft hf
    · exact ⟨c, rest, ht, hd⟩
  · obtain ⟨rest, rfl⟩ | ⟨c, rest, -, -, rfl⟩ := step_cases_of_fault hf h
    · exact ⟨rfl, rfl⟩
    · exact absurd rfl hft

/-! ## An enabled step has a next state -/

/-- By ownership a swap releases a slot that is outstanding (R124, R177). -/
theorem exists_exec_dispTick {s : State} (ho : Ownership s) (hf : s.fault = .noFault) :
    ∃ t, exec .dispTick s = .next t := by
  obtain ⟨-, hheld⟩ := ho
  by_cases hr : s.row.val < 7
  · exact ⟨_, exec_dispTick_lt hf hr⟩
  · have hr7 : s.row = 7 := by omega
    cases hp : s.pend with
    | none => exact ⟨_, exec_dispTick_wrap_empty hf hr7 hp⟩
    | some g => exact ⟨_, exec_dispTick_wrap_full hf hr7 hp ((hheld s.cur).mpr (by simp [holders]))⟩

/-- By ownership the held buffer and a pending one are outstanding and distinct, so the install has a meaning (R136,
R197). -/
theorem exists_exec_ssFinish {s : State} (ho : Ownership s) (hf : s.fault = .noFault) (hh : s.hold ≠ none) :
    ∃ t, exec .ssFinish s = .next t := by
  obtain ⟨hnodup, hheld⟩ := ho
  obtain ⟨h, hh⟩ := Option.ne_none_iff_exists'.mp hh
  have hhold : freeGet s.free h = false := (hheld h).mpr (by simp [holders, hh])
  cases hp : s.pend with
  | none => exact ⟨_, exec_ssFinish_empty hf hh hhold hp⟩
  | some g =>
    have hpend : freeGet s.free g = false := (hheld g).mpr (by simp [holders, hp])
    obtain ⟨-, -, -, -, -, hdistinct⟩ := nodup_holders_iff.mp hnodup
    have hne : g ≠ h := fun e => hdistinct h hh (e ▸ hp)
    exact ⟨_, exec_ssFinish_full hf hh hhold hpend hp hne⟩

/-! The enabling conditions that ask for more than no fault (R226). -/

theorem enabled_cntInc_iff {s : State} : enabled .cntInc s = true ↔ s.fault = .noFault ∧ 0 < s.cntReq := by
  simp [enabled]

theorem enabled_ssBegin_iff {s : State} : enabled .ssBegin s = true ↔ s.fault = .noFault ∧ s.hold = none := by
  simp [enabled]

theorem enabled_ssFinish_iff {s : State} : enabled .ssFinish s = true ↔ s.fault = .noFault ∧ s.hold ≠ none := by
  simp [enabled, Option.isSome_iff_ne_none]

/-- In a state of the invariant a well-formed step that is enabled has a next state (R226, R233). -/
theorem exists_exec_of_enabled {i : Instr} {s : State} (hs : Invariant s) (hi : i.isStep = true)
    (hw : i.wellFormed = true) (he : enabled i s = true) : ∃ t, exec i s = .next t := by
  by_cases hreset : i = .reset
  · exact ⟨_, hreset ▸ exec_reset s⟩
  have hf := noFault_of_enabled hreset he
  have ⟨_, _, _, hu⟩ := hs
  obtain ⟨-, hown, -⟩ := hu hf
  cases i with
  | rxSync => exact ⟨_, exec_rxSync hf⟩
  | rxData d =>
    obtain ⟨t, h, -⟩ := exists_exec_rxData hs hf (by simpa [Instr.wellFormed] using hw)
    exact ⟨t, h⟩
  | dispTick => exact exists_exec_dispTick hown hf
  | cntInc => exact ⟨_, exec_cntInc hf (enabled_cntInc_iff.mp he).2⟩
  | ssBegin =>
    obtain ⟨t, h, -⟩ := exists_exec_ssBegin hs hf (enabled_ssBegin_iff.mp he).2
    exact ⟨t, h⟩
  | ssFinish => exact exists_exec_ssFinish hown hf (enabled_ssFinish_iff.mp he).2
  | reset => exact absurd rfl hreset
  | _ => cases hi

/-- An operation that has a next state was enabled (R98). -/
theorem enabled_of_exec {i : Instr} {s t : State} (h : exec i s = .next t) : enabled i s = true := by
  obtain ⟨effect, he⟩ := exec_eq_whenEnabled i s
  obtain ⟨henabled, -⟩ := whenEnabled_eq_next.mp (he.symm.trans h)
  exact henabled

/-- Settles O47: an enabled step moves, a step that moves was enabled, and the table of R226. -/
theorem enabledStepsAlwaysMove : Obligations.EnabledStepsAlwaysMove := by
  intro i s hs hi hw
  refine ⟨⟨exists_exec_of_enabled hs hi hw, fun ⟨_, h⟩ => enabled_of_exec h⟩, ?_⟩
  cases i with
  | cntInc => exact enabled_cntInc_iff
  | ssBegin => exact enabled_ssBegin_iff
  | ssFinish => exact enabled_ssFinish_iff
  | _ => simp [enabled]

end Sys2Proof.Machine
end

section
/-! SUPPORT. Reset (70_reset_and_hazards.md rules R260 to R263, R271): the reset state reached by RESET, built in order,
and what is enabled in it; the proofs of O41, O42, O43 and O44. -/

namespace Sys2Proof.Machine

/-- Settles O41: every register by its definition; slot 0 reads as the frame that was written, and no other slot was
written. -/
theorem resetGivesTheResetState : Obligations.ResetGivesTheResetState := by
  refine fun s => ⟨resetFrom s, exec_reset s, rfl, rfl, rfl, rfl, rfl, rfl, rfl, rfl, rfl, rfl, rfl, rfl, rfl,
    fun r c k => ?_, fun o ho => ?_, rfl, rfl⟩
  · exact lookup_writeFrameBytes _ _ _ _ r c k
  · have hother : ∀ h : Handle, h ≠ 0 → (resetFrom s).mem.lookup (addr h o) = none := fun h hne =>
      lookup_writeFrameBytes_other _ _ _ _ (inSlot_addr_of_ne ho hne)
    exact ⟨hother 1 (by decide), hother 2 (by decide)⟩

/-- Settles O42: without a fault the enabling conditions read only the owed increments and the held buffer, and both
are empty. -/
theorem stepsEnabledAtReset : Obligations.StepsEnabledAtReset := by
  intro cfg
  have hcnt : enabled .cntInc (State.resetWith cfg) = false := by simp [enabled]
  have hfinish : enabled .ssFinish (State.resetWith cfg) = false := by simp [enabled]
  exact ⟨rfl, fun _ => rfl, rfl, rfl, rfl, hcnt, hfinish⟩

/-- Settles O43: the default policy acquires slot 0 from the full pool and then slot 1, the registers of R261. -/
theorem bootInOrderGivesTheResetState : Obligations.BootInOrderGivesTheResetState := by
  intro cfg hp
  have hshown : choose cfg.policy ⟨true, true, true⟩ = some 0 := by rw [hp]; rfl
  have hassembled : choose cfg.policy ⟨false, true, true⟩ = some 1 := by rw [hp]; rfl
  simp [bootInOrder, acquire, hshown, hassembled, freeSet, State.resetWith]

/-- Settles O44: the reset state for the default parameters is that for any. -/
theorem resetMeetsTheInvariant : Obligations.ResetMeetsTheInvariant :=
  ⟨invariant_resetWith Config.default, invariant_resetWith⟩

end Sys2Proof.Machine
end

section
/-! SUPPORT. The premises of a no-fault claim (70_reset_and_hazards.md rules R275, R276): a pending frame owes a wrap,
which every step that does not fault keeps; the proof of O40. -/

namespace Sys2Proof.Machine

/-- A frame is pending only while a wrap is owed (R275). -/
def PendingOwes (owed : Bool) (s : State) : Prop := s.pend ≠ none → owed = true

/-- Neither situation of R222 arises in a step that keeps both premises (R275, R276). -/
theorem noFault_exec_of_premises {i : Instr} {owed : Bool} {s t : State} (hs : Invariant s) (hf : s.fault = .noFault)
    (howes : PendingOwes owed s) (hi : i.isStep = true) (hidle : idleTick i s → owed = false) (hrx : noRxInSs i s)
    (h : exec i s = .next t) : t.fault = .noFault := by
  obtain ⟨hrxFault, hssFault⟩ := faultExactlyWhenThePoolIsExhausted i s t hs hf hi h
  cases hft : t.fault with
  | noFault => rfl
  | poolExhaustedRx =>
    obtain ⟨⟨d, hd⟩, hlast, hhold⟩ := hrxFault.mp hft
    exact absurd (hrx d hd hlast) hhold
  | poolExhaustedSs =>
    obtain ⟨hbegin, hcnt, hpend⟩ := hssFault.mp hft
    have hpaid := hidle ⟨hbegin, hcnt⟩
    exact absurd (howes hpend) (by simp [hpaid])

/-- A tick below the wrap leaves the Pending Slot alone, and at the wrap it leaves it empty (R177). -/
theorem pend_exec_dispTick {s t : State} (h : exec .dispTick s = .next t) :
    s.row ≠ 7 ∧ t.pend = s.pend ∨ s.row = 7 ∧ t.pend = none := by
  obtain ⟨-, ⟨hr, rfl⟩ | ⟨hr, hp, rfl⟩ | ⟨g, hr, -, -, rfl⟩⟩ := exec_dispTick_inv h
  · exact .inl ⟨by rintro e; simp [e] at hr, rfl⟩
  · exact .inr ⟨hr, hp⟩
  · exact .inr ⟨hr, rfl⟩

/-- An install owes a wrap, and what pays or forgets one leaves the Pending Slot empty (R275). -/
theorem pendingOwes_exec {i : Instr} {owed : Bool} {s t : State} (howes : PendingOwes owed s) (hi : i.isStep = true)
    (h : exec i s = .next t) (hf : t.fault = .noFault) : PendingOwes (wrapOwedAfter i s owed) t := by
  cases i with
  | rxSync =>
    obtain ⟨-, rfl⟩ := exec_rxSync_inv h
    exact howes
  | rxData d =>
    obtain ⟨-, -, ⟨hlt, rfl⟩ | ⟨hlast, -⟩⟩ := exec_rxData_inv h
    · rw [wrapOwedAfter, if_neg (Nat.ne_of_lt hlt)]
      exact howes
    · rw [wrapOwedAfter, if_pos hlast]
      exact fun _ => rfl
  | dispTick =>
    obtain ⟨hr, hp⟩ | ⟨-, hp⟩ := pend_exec_dispTick h
    · have hr' : s.row.val ≠ 7 := fun e => hr (Fin.ext e)
      rw [wrapOwedAfter, if_neg hr', PendingOwes, hp]
      exact howes
    · exact fun hne => absurd hp hne
  | cntInc =>
    obtain ⟨-, -, rfl⟩ := exec_cntInc_inv h
    exact howes
  | ssBegin =>
    obtain ⟨f, l, p, o, d, rfl⟩ := exec_ssBegin_frame h hf
    exact howes
  | ssFinish => exact fun _ => rfl
  | reset =>
    obtain rfl := Host.Outcome.next.inj ((exec_reset s).symm.trans h)
    exact fun hne => absurd rfl hne
  | _ => cases hi

/-- Settles O40: the invariant, the absence of a fault and the wrap owed by a pending frame are kept by every step of
the run. -/
theorem noFaultUnderThePremises : Obligations.NoFaultUnderThePremises := by
  intro is
  induction is with
  | nil =>
    intro owed s t _ hf _ _ h
    obtain rfl := Host.Outcome.next.inj h
    exact hf
  | cons i is ih =>
    intro owed s t hs hf howes hprem h
    obtain ⟨hi, hidle, hrx, hrest⟩ := hprem
    obtain ⟨u, hexec, hrun⟩ := runOps_cons_eq_next.mp h
    have hfu := noFault_exec_of_premises hs hf howes hi hidle hrx hexec
    exact ih _ u t (invariant_exec hi hs hexec) hfu (pendingOwes_exec howes hi hexec hfu) (hrest u hexec) hrun

end Sys2Proof.Machine
end

section
/-! SUPPORT. The deadlines (10_state.md rule R35, 70_reset_and_hazards.md rule R282): one period more for each tick; the
proofs of O58 and O59. -/

namespace Sys2Proof.Machine

/-- A tick counts one row period, in each of its cases (R35, R181). -/
theorem dispDeadline_exec_dispTick {s t : State} (h : exec .dispTick s = .next t) :
    t.dispDeadline = s.dispDeadline + 1 := by
  obtain ⟨-, ⟨-, rfl⟩ | ⟨-, -, rfl⟩ | ⟨g, -, -, -, rfl⟩⟩ := exec_dispTick_inv h <;> rfl

/-- Settles O58: one period more, and a period is 1/480 s. -/
theorem rowDeadlinesAreAbsolute : Obligations.RowDeadlinesAreAbsolute := by
  intro d0 s t h
  rw [rowDeadline, rowDeadline, dispDeadline_exec_dispTick h, rowPeriod]
  push_cast
  ring

/-- A whole screensaver tick that does not fault counts one screensaver period and keeps the parameters (R35, R205). -/
theorem ssDeadline_ssTick {s t : State} (h : ssTick s = .next t) (hf : t.fault = .noFault) :
    t.ssDeadline = s.ssDeadline + 1 ∧ t.cfg = s.cfg := by
  obtain ⟨-, rfl⟩ | ⟨-, g, -, hfinish⟩ := ssTick_cases h hf
  · exact ⟨rfl, rfl⟩
  · obtain ⟨-, -, -, hdeadline⟩ := exec_ssFinish_elements hfinish rfl
    refine ⟨hdeadline, ?_⟩
    obtain ⟨m, f, p, l, o, d, n, rfl⟩ := exec_ssFinish_frame hfinish
    rfl

/-- Settles O59: one period more, of the same length. -/
theorem screensaverDeadlinesAreAbsolute : Obligations.ScreensaverDeadlinesAreAbsolute := by
  intro d0 s t h hf
  obtain ⟨hdeadline, hcfg⟩ := ssDeadline_ssTick h hf
  rw [screensaverDeadline, screensaverDeadline, hdeadline, hcfg]
  push_cast
  ring

end Sys2Proof.Machine
end
